-- ==== Sys2Proof/Word.lean ====
section
/-! DEFINITION. The word types of the block (R5): every width the source fixes, as bit vectors. -/

namespace Sys2Proof

/-- One byte of the bus, and the command byte's width (R5). -/
abbrev Byte := BitVec 8

/-- The Raw Word, an operand of either decoder, and the `RQ` descriptor (R5, R80). -/
abbrev Word := BitVec 16

/-- A device address, 7 bits (R5). -/
abbrev DevAddr := BitVec 7

/-- A raw exponent before sign recovery: `E` of Linear11, `X` of Linear16 (R5, R13). -/
abbrev RawExp := BitVec 5

/-- A decoder's result port, unsigned with 16 integer and 31 fraction bits (R5, R10). -/
abbrev Fixed := BitVec 47

end Sys2Proof
end

