-- ==== Sys2Proof/Config.lean ====
section
/-! DEFINITION. What an implementation fixes, and the free values (R5, R9). Both constants are opaque:
no proof can see their value, so what is proved holds for every value. -/

namespace Sys2Proof

/-- `DEV_ADDR`, the fixed peripheral address of the channel layer: OPEN in the spec (R5, R60, R190; D14).
DESIGN CHOICE (log entry 3): an opaque parameter. -/
opaque Config.devAddr : DevAddr

/-- `draw(8)`: the `n`-th byte the FSM reads that the device never sent, under no law (R9, R124; U1).
DESIGN CHOICE (log entry 4): an uninterpreted function of the counter `Transport.draws`, which every draw
advances, so that each draw is a fresh value. -/
opaque Config.draw : Nat → Byte

end Sys2Proof
end

