-- ==== Sys2Proof/Syntax.lean ====
section
/-! DEFINITION. The operations of the block, one constructor per row of the operation table (R11, R89), and
the operand bundles by which they are presented (R80, R91). -/

namespace Sys2Proof

/-- The four operations and the five pseudo-operations of the channel layer (R11). -/
inductive Instr where
  /-- `REQ1 a, c`: one-byte bus request (R114). -/
  | req1 (a : DevAddr) (c : Byte)
  /-- `REQ2 a, c`: two-byte bus request (R115). -/
  | req2 (a : DevAddr) (c : Byte)
  /-- `DEC11 w`: Linear11 decode (R150). -/
  | dec11 (w : Word)
  /-- `DEC16 w, x`: Linear16 decode (R170). -/
  | dec16 (w : Word) (x : RawExp)
  /-- `VIN`: input voltage (R192). -/
  | vin
  /-- `VOUT`: output voltage (R193). -/
  | vout
  /-- `TEMP`: temperature (R194). -/
  | temp
  /-- `IOUT`: output current (R195). -/
  | iout
  /-- `POUT`: output power (R196). -/
  | pout
  deriving DecidableEq, Repr

/-- The five telemetry channels (R13, R191). The two disabled ones have no constructor (R199). -/
inductive Channel where
  | vin
  | vout
  | temp
  | iout
  | pout
  deriving DecidableEq, Repr

/-- Where an operand bundle is presented: no bit of a bundle selects the unit, the port does (R91). -/
inductive Port where
  /-- The FSM's request port (R111). -/
  | request
  /-- The Linear11 decoder's input (R155). -/
  | linear11
  /-- The Linear16 decoder's inputs (R171). -/
  | linear16
  /-- The channel layer outside CORE (R190). -/
  | channel
  deriving DecidableEq, Repr

/-- An operand bundle on its port, in the formats of R80. Every format has one fixed length. -/
inductive Bundle where
  /-- An `RQ` descriptor on the request port (R85). -/
  | rq (d : Word)
  /-- An `L11` word on the Linear11 port (R82). -/
  | l11 (w : Word)
  /-- The 21-bit pair `X, W` on the Linear16 ports (R83). -/
  | l16 (xw : BitVec 21)
  /-- A pseudo-operation, named by the descriptor of its first request (R89). -/
  | channel (d : Word)
  deriving DecidableEq, Repr

end Sys2Proof
end

