-- ==== Sys2Proof/WellFormed.lean ====
section
/-! DEFINITION. Well-formedness. Every operand value the formats carry is admitted (R11), so a typed
instruction is well-formed; what can be ill-formed is what stands in front of the ports: raw numbers
claimed to be a bundle, and the source's software call with an integer length (R93). -/

namespace Sys2Proof

/-- Every instruction is well-formed: the operations are total on their operands (R11, R90, R92). -/
def Instr.wf : Instr → Bool
  | .req1 _ _ => true
  | .req2 _ _ => true
  | .dec11 _ => true
  | .dec16 _ _ => true
  | .vin => true
  | .vout => true
  | .temp => true
  | .iout => true
  | .pout => true

/-- The one fixed length of each port's format (R80, R89). -/
def Port.width : Port → Nat
  | .request => 16
  | .linear11 => 16
  | .linear16 => 21
  | .channel => 16

/-- A row of the operation table: its mnemonic, the port that selects its unit, and its selecting pattern
(R89: a word belongs to the row when `word & mask = value`). -/
structure Row where
  mnemonic : String
  port : Port
  mask : Nat
  value : Nat
  deriving DecidableEq, Repr

/-- The table of R89 (for `VOUT`, the first of its two descriptors). -/
def opcodeRows : List Row :=
  [⟨"REQ1", .request, 0x8000, 0x0000⟩, ⟨"REQ2", .request, 0x8000, 0x8000⟩,
   ⟨"DEC11", .linear11, 0x0000, 0x0000⟩, ⟨"DEC16", .linear16, 0x000000, 0x000000⟩] ++
  [⟨"VIN", .channel, 0x80FF, 0x8088⟩, ⟨"VOUT", .channel, 0x80FF, 0x808B⟩,
   ⟨"TEMP", .channel, 0x80FF, 0x808D⟩, ⟨"IOUT", .channel, 0x80FF, 0x808C⟩,
   ⟨"POUT", .channel, 0x80FF, 0x8096⟩]

/-- A word falls under a row's pattern (R89). -/
def Row.admits (r : Row) (p : Port) (bits : Nat) : Bool :=
  decide (r.port = p) && (bits &&& r.mask == r.value)

/-- Raw bits claimed to be a bundle on a port. -/
structure RawBundle where
  port : Port
  nbits : Nat
  bits : Nat
  deriving DecidableEq, Repr

/-- A raw bundle has its port's width, its value fits, and some row's pattern admits it. -/
def RawBundle.wf (b : RawBundle) : Bool :=
  b.nbits == b.port.width && decide (b.bits < 2 ^ b.nbits) && opcodeRows.any (·.admits b.port b.bits)

/-- The source's call `request(deviceAddress, command, expectedLength)` with plain integers, as a software
front end takes it (R93, R110). -/
structure RequestCall where
  deviceAddress : Nat
  command : Nat
  expectedLength : Nat
  deriving DecidableEq, Repr

/-- A front end must refuse every length other than 1 and 2 (R93); an address has 7 bits, a command 8 (R22). -/
def RequestCall.wf (q : RequestCall) : Bool :=
  decide (q.deviceAddress < 2 ^ 7) && decide (q.command < 2 ^ 8) &&
    (q.expectedLength == 1 || q.expectedLength == 2)

end Sys2Proof
end

