-- ==== Sys2Proof/Decode.lean ====
section
/-! DEFINITION. The decoder of operand bundles, total and rejecting by name; the encoder written from the
same table (R85, R89); the front ends before it; and the host's numbering of table words. -/

namespace Sys2Proof

/-- Why a bundle or a call in front of the ports is rejected. -/
inductive Reject where
  /-- The bits have not the width of the port's format (R80). -/
  | width (nbits : Nat)
  /-- A channel-layer descriptor that is none of the five channels' (R96, R199; U8). -/
  | notAChannel (d : Word)
  /-- An expected length other than 1 or 2 (R93; U10). -/
  | length (n : Nat)
  /-- A device address of more than 7 bits (R22). -/
  | address (n : Nat)
  /-- A command of more than 8 bits (R22). -/
  | command (n : Nat)
  deriving DecidableEq, Repr

/-! ### Format `RQ` (R85) -/

/-- `LEN2`, bit 15. -/
def rqLen2 (d : Word) : Bool := d.getLsbD 15

/-- `A`, bits 14 to 8. -/
def rqAddr (d : Word) : DevAddr := d.extractLsb' 8 7

/-- `C`, bits 7 to 0. -/
def rqCmd (d : Word) : Byte := d.extractLsb' 0 8

/-- The descriptor of three operands. -/
def rqDescriptor (len2 : Bool) (a : DevAddr) (c : Byte) : Word := BitVec.ofBool len2 ++ a ++ c

/-! ### Channels (R191) -/

/-- The command byte of a channel's first request (R191). -/
def Channel.command : Channel → Byte
  | .vin => 0x88
  | .vout => 0x8B
  | .temp => 0x8D
  | .iout => 0x8C
  | .pout => 0x96

/-- The command byte of the output-voltage mode register (R59, R193). -/
def modeCommand : Byte := 0x20

/-- The channel whose pattern admits a descriptor (R89). The field `A` is not examined: it stands for the
parameter `DEV_ADDR` (log entry 14). -/
def channelOf (d : Word) : Option Channel :=
  if d &&& 0x80FF = 0x8088 then some .vin
  else if d &&& 0x80FF = 0x808B then some .vout
  else if d &&& 0x80FF = 0x808D then some .temp
  else if d &&& 0x80FF = 0x808C then some .iout
  else if d &&& 0x80FF = 0x8096 then some .pout
  else none

/-- The pseudo-operation of a channel (R191). -/
def Channel.instr : Channel → Instr
  | .vin => .vin
  | .vout => .vout
  | .temp => .temp
  | .iout => .iout
  | .pout => .pout

/-- The decoder: which operation a bundle on its port presents (R90, R91). -/
def decode : Bundle → Except Reject Instr
  | .rq d => .ok (if rqLen2 d then .req2 (rqAddr d) (rqCmd d) else .req1 (rqAddr d) (rqCmd d))
  | .l11 w => .ok (.dec11 w)
  | .l16 xw => .ok (.dec16 (xw.extractLsb' 0 16) (xw.extractLsb' 16 5))
  | .channel d =>
    match channelOf d with
    | some ch => .ok ch.instr
    | none => .error (.notAChannel d)

/-- The encoder (R83, R85, R89): a pseudo-operation by its first descriptor, with `A = DEV_ADDR`. -/
def encode : Instr → Bundle
  | .req1 a c => .rq (rqDescriptor false a c)
  | .req2 a c => .rq (rqDescriptor true a c)
  | .dec11 w => .l11 w
  | .dec16 w x => .l16 (x ++ w)
  | .vin => .channel (rqDescriptor true Config.devAddr (Channel.command .vin))
  | .vout => .channel (rqDescriptor true Config.devAddr (Channel.command .vout))
  | .temp => .channel (rqDescriptor true Config.devAddr (Channel.command .temp))
  | .iout => .channel (rqDescriptor true Config.devAddr (Channel.command .iout))
  | .pout => .channel (rqDescriptor true Config.devAddr (Channel.command .pout))

/-- The port a bundle is presented on. -/
def Bundle.port : Bundle → Port
  | .rq _ => .request
  | .l11 _ => .linear11
  | .l16 _ => .linear16
  | .channel _ => .channel

/-- The bits of a bundle, bit 0 least significant (R8). -/
def Bundle.bits : Bundle → Nat
  | .rq d => d.toNat
  | .l11 w => w.toNat
  | .l16 xw => xw.toNat
  | .channel d => d.toNat

/-- An operation's row of the table (R89). -/
def Instr.row : Instr → Row
  | .req1 _ _ => ⟨"REQ1", .request, 0x8000, 0x0000⟩
  | .req2 _ _ => ⟨"REQ2", .request, 0x8000, 0x8000⟩
  | .dec11 _ => ⟨"DEC11", .linear11, 0x0000, 0x0000⟩
  | .dec16 _ _ => ⟨"DEC16", .linear16, 0x000000, 0x000000⟩
  | .vin => ⟨"VIN", .channel, 0x80FF, 0x8088⟩
  | .vout => ⟨"VOUT", .channel, 0x80FF, 0x808B⟩
  | .temp => ⟨"TEMP", .channel, 0x80FF, 0x808D⟩
  | .iout => ⟨"IOUT", .channel, 0x80FF, 0x808C⟩
  | .pout => ⟨"POUT", .channel, 0x80FF, 0x8096⟩

/-- The `RQ` descriptors an operation issues, in order (R89, R97): two for `VOUT`, none for a decode. -/
def Instr.descriptors : Instr → List Word
  | .req1 a c => [rqDescriptor false a c]
  | .req2 a c => [rqDescriptor true a c]
  | .dec11 _ => []
  | .dec16 _ _ => []
  | .vin => [rqDescriptor true Config.devAddr (Channel.command .vin)]
  | .vout => [rqDescriptor true Config.devAddr (Channel.command .vout),
              rqDescriptor false Config.devAddr modeCommand]
  | .temp => [rqDescriptor true Config.devAddr (Channel.command .temp)]
  | .iout => [rqDescriptor true Config.devAddr (Channel.command .iout)]
  | .pout => [rqDescriptor true Config.devAddr (Channel.command .pout)]

/-! ### In front of the ports -/

/-- Raw bits as a bundle of the port's format, or the name of what is wrong. -/
def RawBundle.toBundle (b : RawBundle) : Except Reject Bundle :=
  if b.nbits = b.port.width ∧ b.bits < 2 ^ b.nbits then
    match b.port with
    | .request => .ok (.rq (BitVec.ofNat 16 b.bits))
    | .linear11 => .ok (.l11 (BitVec.ofNat 16 b.bits))
    | .linear16 => .ok (.l16 (BitVec.ofNat 21 b.bits))
    | .channel => .ok (.channel (BitVec.ofNat 16 b.bits))
  else .error (.width b.nbits)

/-- The decoder on raw bits: total, rejecting by name. -/
def decodeRaw (b : RawBundle) : Except Reject Instr :=
  match b.toBundle with
  | .ok x => decode x
  | .error r => .error r

/-- The software front end of R93: an integer length other than 1 or 2 is refused before it reaches the
block. -/
def decodeCall (q : RequestCall) : Except Reject Instr :=
  if q.deviceAddress < 2 ^ 7 then
    if q.command < 2 ^ 8 then
      if q.expectedLength = 1 then
        .ok (.req1 (BitVec.ofNat 7 q.deviceAddress) (BitVec.ofNat 8 q.command))
      else if q.expectedLength = 2 then
        .ok (.req2 (BitVec.ofNat 7 q.deviceAddress) (BitVec.ofNat 8 q.command))
      else .error (.length q.expectedLength)
    else .error (.command q.command)
  else .error (.address q.deviceAddress)

/-! ### The host's numbering of table words -/

/-- The port on which a table word of `nbits` bits is presented when nothing else names the port. DESIGN
CHOICE (log entry 2): a word wider than 16 bits on the Linear16 ports; a 16-bit word that a pseudo-operation's
pattern admits on the channel layer; any other on the request port. No bit tells a Linear11 word (R91). -/
def tablePort (nbits w : Nat) : Port :=
  if nbits ≤ 16 then
    if (channelOf (BitVec.ofNat 16 w)).isSome then .channel else .request
  else .linear16

/-- A table word as a bundle: bit 0 is the least significant bit; 24 bits are the 21 of `L16` in whole bytes. -/
def tableBundle (nbits w : Nat) : Option Bundle :=
  let p := tablePort nbits w
  if nbits = p.width ∨ (nbits = 24 ∧ p.width = 21) then
    match RawBundle.toBundle ⟨p, p.width, w⟩ with
    | .ok b => some b
    | .error _ => none
  else none

/-- The instruction the decoder reads from a table word of `nbits` bits. -/
def decodeTableWord (nbits w : Nat) : Option Instr :=
  match tableBundle nbits w with
  | some b =>
    match decode b with
    | .ok i => some i
    | .error _ => none
  | none => none

end Sys2Proof
end

