-- ==== Sys2Proof/Machine/State.lean ====
section
/-! DEFINITION. The state of the block and of what the spec names around it, as plain data, and the state
after reset. INVENTORY.md's State section lists every field with its rule. -/

namespace Sys2Proof.Machine

/-! ### The transaction FSM (R21 to R27) -/

/-- `FSM_STATE`: seven values and no eighth (R24). -/
inductive FsmState where
  | sIdle
  | sBegin
  | sWrite
  | sEnd
  | sReq
  | sRdLo
  | sRdHi
  deriving DecidableEq, Repr

/-- The registers of the block; all belong to the transaction FSM (R21). `BUSY` is a function of them (R25). -/
structure Fsm where
  /-- `FSM_STATE` (R24). -/
  state : FsmState
  /-- `ADDR_R[6:0]` (R22). -/
  addrR : DevAddr
  /-- `CMD_R[7:0]` (R22). -/
  cmdR : Byte
  /-- `LEN2_R`: true when two bytes are asked for (R22). -/
  len2R : Bool
  /-- `RAW_WORD[15:0]` (R23). -/
  rawWord : Word
  /-- `DONE` (R26). -/
  done : Bool
  /-- `ERR` (R27). -/
  err : Bool
  deriving DecidableEq, Repr

/-- The reset values of R32 (and R240). -/
def Fsm.reset : Fsm :=
  { state := .sIdle, addrR := 0, cmdR := 0, len2R := false, rawWord := 0, done := false, err := false }

/-! ### The transport (R30, R31, R112) -/

/-- The six transport commands with their arguments (R112). -/
inductive TCmd where
  /-- `T_BEGIN(a)`. -/
  | tBegin (a : DevAddr)
  /-- `T_WRITE(d)`. -/
  | tWrite (d : Byte)
  /-- `T_END(stop)`. -/
  | tEnd (stop : Bool)
  /-- `T_REQ(a, n, stop)`. -/
  | tReq (a : DevAddr) (n : Nat) (stop : Bool)
  /-- `T_AVAIL`: in the transport's shape, never issued by the FSM (R127). -/
  | tAvail
  /-- `T_READ`. -/
  | tRead
  deriving DecidableEq, Repr

/-- Who has the bus, as far as the spec says (R31). DEDUCED (log entry 12). -/
inductive BusHold where
  /-- Released: a `T_REQ` with stop has completed. -/
  | released
  /-- Held on behalf of this block: `T_END(0)` has completed and `T_REQ` has not. -/
  | held
  /-- The transport's affair; the spec does not say. -/
  | unstated
  deriving DecidableEq, Repr

/-- What the spec names of the transport, outside the block (R30, R31, R243, R253). -/
structure Transport where
  /-- The receive buffer: the bytes of the last completed `T_REQ` not yet read (R30). -/
  rx : List Byte
  /-- Bus ownership (R31). -/
  bus : BusHold
  /-- `TRANSPORT_READY`: initialised, and no transaction of an abandoned run is open (R243, R255). -/
  ready : Bool
  /-- The model's own: how many draws have been taken (R9, R124; log entry 4). -/
  draws : Nat
  /-- The model's own: the commands completed since the last operation was accepted (R253; log entry 17). -/
  log : List TCmd
  deriving DecidableEq, Repr

/-! ### The caller and the channel layer (R7, R33, R190) -/

/-- The pseudo-operation in progress in the channel layer, with its temporary (R33, R193, R197). -/
inductive ChanPhase where
  /-- None. -/
  | idle
  /-- The first request, for the telemetry word, has been accepted and runs. -/
  | word (ch : Channel)
  /-- `VOUT`: the word and its error are copied, the mode request is presented and not yet accepted. -/
  | modePending (w : Word) (e1 : Bool)
  /-- `VOUT`: the mode request has been accepted and runs. -/
  | mode (w : Word) (e1 : Bool)
  deriving DecidableEq, Repr

/-- The result `(v, err)` of a pseudo-operation, `v` as its 47-bit `Q` encoding (R10, R97). -/
structure ChanResult where
  q : Fixed
  err : Bool
  deriving DecidableEq, Repr

/-- The decoders' input wires and the channel layer's state. -/
structure Caller where
  /-- `l11_word[15:0]`, driven by the caller (R155). -/
  l11Word : Word
  /-- `l16_word[15:0]` (R171). -/
  l16Word : Word
  /-- `l16_exp[4:0]` (R171). -/
  l16Exp : RawExp
  /-- The pseudo-operation in progress. -/
  chan : ChanPhase
  /-- What the last pseudo-operation delivered, none before the first and while one runs. -/
  result : Option ChanResult
  deriving DecidableEq, Repr

/-! ### The environment at one clock edge (R7, R33, R111, R112) -/

/-- What agents other than this FSM do with the transport at an edge (R243, R244). -/
inductive Outside where
  /-- Nothing. -/
  | quiet
  /-- Another agent hands commands to the same transport (R244). -/
  | traffic
  /-- The platform initialises the transport and the bus (R243, R247). -/
  | initialise
  deriving DecidableEq, Repr

/-- A request of the caller: a descriptor on the FSM's request port, or one that names a pseudo-operation of the
channel layer, which then drives that port (R111, R190). One caller has one of the two at an edge (R7, R222; log
entry 9). -/
inductive CallerRequest where
  /-- On the request port (R85). -/
  | rq (d : Word)
  /-- On the channel layer (R89). -/
  | channel (d : Word)
  deriving DecidableEq, Repr

/-- Everything the environment drives at one clock edge, each port by itself, so that any inputs may coincide
(R91, R215, R241, R254). -/
structure Edge where
  /-- `rst` (R111). -/
  rst : Bool
  /-- What the caller presents as a request, if anything. -/
  request : Option CallerRequest
  /-- `l11_word`, where the caller drives a new value (R155, R254). -/
  l11 : Option Word
  /-- The pair `l16_exp`, `l16_word`, where the caller drives a new one (R171, R254). -/
  l16 : Option (BitVec 21)
  /-- `t_done`: the transport completes the outstanding command. The list is what the device has sent, used
  when that command is `T_REQ`: its length is the answer `k`, its bytes are the answers of the `T_READ`s that
  follow (R30, R124; log entry 6). -/
  done : Option (List Byte)
  /-- `t_avail`, driven by the transport under no law; nothing reads it (R112, R127). -/
  avail : Bool
  /-- Others on the transport. -/
  outside : Outside
  deriving DecidableEq, Repr

/-- An edge at which nothing happens. -/
def Edge.silent : Edge :=
  { rst := false, request := none, l11 := none, l16 := none, done := none, avail := false, outside := .quiet }

/-- The whole state. `inputs` lists the coming edges, the next first; after the last, edges are silent
(R33; log entry 1). -/
structure State where
  fsm : Fsm
  transport : Transport
  caller : Caller
  inputs : List Edge
  deriving DecidableEq, Repr

/-- The machine right after reset: the registers of R32; everything outside the block at the values of log
entry 5 (the spec gives none: R32 and R242 leave the transport "not reset by this block"). -/
def State.reset : State :=
  { fsm := Fsm.reset
    transport := { rx := [], bus := .unstated, ready := false, draws := 0, log := [] }
    caller := { l11Word := 0, l16Word := 0, l16Exp := 0, chan := .idle, result := none }
    inputs := [] }

/-- Why the machine can stop with a fault. The block has no trap (R214); no instruction raises one. -/
inductive Fault where
  /-- Raised by `step`, by no instruction: while a transaction is in progress, another agent hands commands to
  the same transport or the platform initialises it. The spec gives no behaviour (R244; U9 has a model refuse
  it): the race is named. Safe: the model stops where the hardware goes on in some way. -/
  | interleavedBus
  deriving DecidableEq, Repr

/-- Why the machine can refuse. -/
inductive Refusal where
  /-- The rejection of an instruction without a meaning; no arm of `exec` raises it. Safe. -/
  | notModelled (mnemonic : String)
  /-- Raised by `step`, by no instruction: the decoder rejects what the caller presents, a descriptor on the
  channel layer that selects none of the five channels (R96, R199; U8). Safe: no such operation exists. -/
  | rejected (r : Reject)
  deriving DecidableEq, Repr

end Sys2Proof.Machine
end

