-- ==== Sys2Proof/Machine/Flags.lean ====
section
/-! DEFINITION. The status flags (R25, R26, R27): the predicate `BUSY`, and the ways `DONE` and `ERR` are
written. -/

namespace Sys2Proof.Machine

/-- `BUSY`, the predicate `FSM_STATE != S_IDLE` (R25). -/
def Fsm.busy (r : Fsm) : Bool := r.state != .sIdle

/-- `req_ready`, the complement of `BUSY` (R111). -/
def Fsm.reqReady (r : Fsm) : Bool := !r.busy

/-- Acceptance clears `DONE` and `ERR` (R26, R27, R116). -/
def clearFlags (r : Fsm) : Fsm := { r with done := false, err := false }

/-- The step that ends a request sets `DONE` and returns to `S_IDLE` (R26, R122, R123). -/
def finishRequest (r : Fsm) : Fsm := { r with done := true, state := .sIdle }

/-- The one test of the answer `k`: `k != n` (R27, R211). -/
def incomplete (k n : Nat) : Bool := decide (k ≠ n)

end Sys2Proof.Machine
end

