-- ==== Sys2Proof/Machine/Operands.lean ====
section
/-! DEFINITION. The operand forms of the data formats (R81 to R88): field extraction, byte assembly, the byte
count, the 5-bit negation, and the reading of a fixed-point result as a rational. -/

namespace Sys2Proof.Machine

/-! ### Format `L11` (R82, R151) -/

/-- `M = word & 0x7FF`, unsigned (R151). -/
def l11Mantissa (w : Word) : BitVec 11 := w.extractLsb' 0 11

/-- `E = word >> 11` (R151). -/
def l11RawExp (w : Word) : RawExp := w.extractLsb' 11 5

/-- The word `{E, M}` (R82, R151). -/
def l11Pack (e : RawExp) (m : BitVec 11) : Word := e ++ m

/-! ### Format `MODE` (R84) -/

/-- `X`, the low 5 bits of the mode read's word; the rest is ignored (R84, R94, R193). -/
def modeRawExp (m : Word) : RawExp := m.extractLsb' 0 5

/-! ### Format `RAW` (R53, R54, R81) -/

/-- The word after the first byte: the high byte is zero (R54, R122). -/
def rawFirst (b : Byte) : Word := b.setWidth 16

/-- The second byte goes to bits 15 to 8, bits 7 to 0 stay (R53, R123). -/
def rawSecond (b : Byte) (w : Word) : Word := b ++ w.extractLsb' 0 8

/-! ### The request length (R22, R86) -/

/-- `n = 1 + uint(LEN2)` (R22). -/
def expectedLen (len2 : Bool) : Nat := 1 + len2.toNat

/-! ### The 5-bit two's-complement negation (R88) -/

/-- `(~raw + 1) & 0x1F` (R88). -/
def neg5 (raw : RawExp) : RawExp := ~~~raw + 1

/-! ### The value of a fixed-point result (R9, R10) -/

/-- The real value a result port presents: `uint(q) / 2^31` (R155, R174). -/
def fixedValue (q : Fixed) : ℚ := (q.toNat : ℚ) / 2 ^ 31

/-- The left barrel shift of a zero-extended mantissa by `31 - s` (R155, R174). -/
def barrel (m : Word) (s : Nat) : Fixed := (m.setWidth 47) <<< (31 - s)

/-- The source's loop: divide by 2, `n` times (R154, R156). -/
def halvings : Nat → ℚ → ℚ
  | 0, v => v
  | n + 1, v => halvings n (v / 2)

end Sys2Proof.Machine
end

