-- ==== Sys2Proof/Machine/Linear11.lean ====
section
/-! DEFINITION. The Linear11 decoder, a pure function of its input word (R150 to R159). -/

namespace Sys2Proof.Machine

/-- Shift-count recovery: negate only when the top bit of the raw exponent is set (R152). Not shared with
Linear16 (R176). -/
def shift11 (e : RawExp) : Nat := if e.getLsbD 4 then (neg5 e).toNat else e.toNat

/-- `l11_q`: the zero-extended mantissa shifted left by `31 - s` (R150, R155). -/
def dec11 (w : Word) : Fixed := barrel ((l11Mantissa w).setWidth 16) (shift11 (l11RawExp w))

/-- The decoded rational `V = uint(M) / 2^s` (R154). -/
def dec11Value (w : Word) : ℚ := ((l11Mantissa w).toNat : ℚ) / 2 ^ shift11 (l11RawExp w)

end Sys2Proof.Machine
end

