-- ==== Sys2Proof/Machine/Linear16.lean ====
section
/-! DEFINITION. The Linear16 decoder, a pure function of its two inputs (R170 to R179). -/

namespace Sys2Proof.Machine

/-- Shift-count recovery: negate always, the top bit is never tested (R172). Not shared with Linear11 (R176). -/
def shift16 (x : RawExp) : Nat := (neg5 x).toNat

/-- `l16_q`: the zero-extended word shifted left by `31 - s` (R170, R174). -/
def dec16 (w : Word) (x : RawExp) : Fixed := barrel w (shift16 x)

/-- The decoded rational `V = uint(w) / 2^s` (R175). -/
def dec16Value (w : Word) (x : RawExp) : ℚ := (w.toNat : ℚ) / 2 ^ shift16 x

end Sys2Proof.Machine
end

