-- ==== Sys2Proof/Machine/Ops.lean ====
section
/-! DEFINITION. The named operations: setters, the FSM's steps (R116 to R123), the transport's part of each
(R30, R31, R124), the report of an error (R211), the channel layer's sequencing (R190 to R198), reset (R240),
and what one clock edge does around an operation. -/

namespace Sys2Proof.Machine

/-! ### Setters: one home for every write of the state -/

def setFsm (r : Fsm) (s : State) : State := { s with fsm := r }

def setTransport (t : Transport) (s : State) : State := { s with transport := t }

def setCaller (c : Caller) (s : State) : State := { s with caller := c }

def setInputs (es : List Edge) (s : State) : State := { s with inputs := es }

/-! ### The decoders' outputs (R29, R159, R179) -/

/-- `l11_q`: at all times the function of the present `l11_word` (R159). -/
def State.l11Q (s : State) : Fixed := dec11 s.caller.l11Word

/-- `l16_q`: at all times the function of the present `l16_word` and `l16_exp` (R179). -/
def State.l16Q (s : State) : Fixed := dec16 s.caller.l16Word s.caller.l16Exp

/-- Drive `l11_word` (R254). -/
def driveL11 (w : Word) (c : Caller) : Caller := { c with l11Word := w }

/-- Drive `l16_word` and `l16_exp` (R254). -/
def driveL16 (w : Word) (x : RawExp) (c : Caller) : Caller := { c with l16Word := w, l16Exp := x }

/-! ### The steps of the FSM -/

/-- The command outstanding in each state, a function of the state and the latches alone (R117). -/
def outstanding (r : Fsm) : Option TCmd :=
  match r.state with
  | .sIdle => none
  | .sBegin => some (.tBegin r.addrR)
  | .sWrite => some (.tWrite r.cmdR)
  | .sEnd => some (.tEnd false)
  | .sReq => some (.tReq r.addrR (expectedLen r.len2R) true)
  | .sRdLo => some .tRead
  | .sRdHi => some .tRead

/-- Step out of `S_IDLE`: a request is accepted (R116). `RAW_WORD` is left as it is. -/
def accept (len2 : Bool) (a : DevAddr) (c : Byte) (r : Fsm) : Fsm :=
  { clearFlags r with addrR := a, cmdR := c, len2R := len2, state := .sBegin }

/-- Report `Incomplete(k, n)`, the block's one error: the single register write `ERR <- (k != n)`. It diverts
nothing, saves nothing and stops nothing (R211, R214); there is no return from it (R216). -/
def raiseIncomplete (k n : Nat) (r : Fsm) : Fsm := { r with err := incomplete k n }

/-- Step out of `S_BEGIN` (R118). -/
def stepBegin (r : Fsm) : Fsm := { r with state := .sWrite }

/-- Step out of `S_WRITE` (R119). -/
def stepWrite (r : Fsm) : Fsm := { r with state := .sEnd }

/-- Step out of `S_END` (R120). -/
def stepEnd (r : Fsm) : Fsm := { r with state := .sReq }

/-- Step out of `S_REQ` on the answer `k`, for every `k` (R121). -/
def stepReq (k : Nat) (r : Fsm) : Fsm :=
  { raiseIncomplete k (expectedLen r.len2R) r with state := .sRdLo }

/-- Step out of `S_RD_LO` on the first byte (R122). -/
def stepRdLo (b : Byte) (r : Fsm) : Fsm :=
  if r.len2R then { r with rawWord := rawFirst b, state := .sRdHi }
  else finishRequest { r with rawWord := rawFirst b }

/-- Step out of `S_RD_HI` on the second byte (R123). -/
def stepRdHi (b : Byte) (r : Fsm) : Fsm := finishRequest { r with rawWord := rawSecond b r.rawWord }

/-- The completion of the outstanding command, with the answers `k` (to `T_REQ`) and `b` (to `T_READ`): the
rows of R130. In `S_IDLE` a completion is ignored. -/
def advance (k : Nat) (b : Byte) (r : Fsm) : Fsm :=
  match r.state with
  | .sIdle => r
  | .sBegin => stepBegin r
  | .sWrite => stepWrite r
  | .sEnd => stepEnd r
  | .sReq => stepReq k r
  | .sRdLo => stepRdLo b r
  | .sRdHi => stepRdHi b r

/-! ### The transport's part -/

/-- The answer of `T_READ`: the next byte the device sent, or a draw beyond the last (R30, R124). -/
def readAnswer (t : Transport) : Byte :=
  match t.rx with
  | b :: _ => b
  | [] => Config.draw t.draws

/-- The byte is taken from the receive buffer; a draw advances the counter of draws. -/
def takeByte (t : Transport) : Transport :=
  match t.rx with
  | _ :: rest => { t with rx := rest }
  | [] => { t with draws := t.draws + 1 }

/-- What the completion of a command leaves in the transport: `T_END(0)` does not release the bus, `T_REQ` with
stop releases it and fills the receive buffer with what the device sent, `T_READ` takes a byte (R30, R31). -/
def transportEffect (cmd : TCmd) (sent : List Byte) (t : Transport) : Transport :=
  match cmd with
  | .tBegin _ => t
  | .tWrite _ => t
  | .tEnd stop => { t with bus := if stop then .released else .held }
  | .tReq _ _ stop => { t with rx := sent, bus := if stop then .released else t.bus }
  | .tAvail => t
  | .tRead => takeByte t

/-- The same, with the command recorded as completed (R253). -/
def transportDone (cmd : Option TCmd) (sent : List Byte) (t : Transport) : Transport :=
  match cmd with
  | none => t
  | some c => { transportEffect c sent t with log := t.log ++ [c] }

/-- From the opening of a transaction the bus may be taken; the spec does not say when (R31). -/
def openBus (t : Transport) : Transport := { t with bus := .unstated }

/-! ### Requests -/

/-- A request is accepted by the FSM, which issues `T_BEGIN` (R116). -/
def acceptRequest (len2 : Bool) (a : DevAddr) (c : Byte) (s : State) : State :=
  setTransport (openBus s.transport) (setFsm (accept len2 a c s.fsm) s)

/-- The caller's request port is free: the FSM is idle (R111) and the channel layer, which drives the same
port, has no pseudo-operation in progress (R197; log entry 9). -/
def portFree (s : State) : Bool := s.fsm.reqReady && s.caller.chan == .idle

/-- A new operation begins a new record of commands (R253; log entry 17). -/
def clearLog (s : State) : State := setTransport { s.transport with log := [] } s

/-- The caller presents a request: accepted where the port is free, else not accepted and without any effect
(R116, R125). -/
def presentRequest (len2 : Bool) (a : DevAddr) (c : Byte) (s : State) : State :=
  if portFree s then acceptRequest len2 a c (clearLog s) else s

/-! ### The channel layer -/

/-- A pseudo-operation begins: its first request, two bytes from `DEV_ADDR`, is accepted (R191 to R197). -/
def startChannel (ch : Channel) (s : State) : State :=
  if portFree s then
    setCaller { s.caller with chan := .word ch, result := none }
      (acceptRequest true Config.devAddr ch.command (clearLog s))
  else s

/-- The layer drives the Linear11 decoder with the word and delivers `(v, e)` (R192, R194 to R196). -/
def deliver11 (w : Word) (e : Bool) (c : Caller) : Caller :=
  { driveL11 w c with chan := .idle, result := some ⟨dec11 w, e⟩ }

/-- The layer drives the Linear16 decoder with the copied word and `m[4:0]` and delivers `(v, e1 OR e2)`
(R193, R198). -/
def deliver16 (w : Word) (e1 : Bool) (m : Word) (e2 : Bool) (c : Caller) : Caller :=
  { driveL16 w (modeRawExp m) c with chan := .idle, result := some ⟨dec16 w (modeRawExp m), e1 || e2⟩ }

/-- The layer takes the word of a completed request: for `VOUT`'s first it copies the word and its error
(R193, R245), for every other it decodes (R197). -/
def takeWord (r : Fsm) (c : Caller) : Caller :=
  match c.chan with
  | .idle => c
  | .word .vin => deliver11 r.rawWord r.err c
  | .word .temp => deliver11 r.rawWord r.err c
  | .word .iout => deliver11 r.rawWord r.err c
  | .word .pout => deliver11 r.rawWord r.err c
  | .word .vout => { c with chan := .modePending r.rawWord r.err }
  | .modePending _ _ => c
  | .mode w e1 => deliver16 w e1 r.rawWord r.err c

/-- `VOUT`'s second request, one byte from the mode register, is accepted once the FSM is idle (R193, R197). -/
def presentMode (s : State) : State :=
  match s.caller.chan with
  | .modePending w e1 =>
    if s.fsm.reqReady then
      setCaller { s.caller with chan := .mode w e1 } (acceptRequest false Config.devAddr modeCommand s)
    else s
  | .idle => s
  | .word _ => s
  | .mode _ _ => s

/-! ### Completion of a transport command -/

/-- The transport completes the outstanding command, `sent` being what the device sent (R117, R121 to R124).
When this ends the request, the channel layer takes the word in the same step (decoders take no step, D21). -/
def completeCommand (sent : List Byte) (s : State) : State :=
  let r := advance sent.length (readAnswer s.transport) s.fsm
  setCaller (if s.fsm.busy && !r.busy then takeWord r s.caller else s.caller)
    (setTransport (transportDone (outstanding s.fsm) sent s.transport) (setFsm r s))

/-! ### Reset and the outside -/

/-- A hold left behind by a reset is no longer known of once something else happens on the bus (log entry 12). -/
def loseHold (t : Transport) : Transport := if t.bus = .held then { t with bus := .unstated } else t

/-- A completion that arrives in `S_IDLE`: the FSM ignores it (R112, R130, R247). It may be that of an abandoned
command, which the spec does not follow: nothing is known of the bus it held nor of the receive buffer. DESIGN
CHOICE (log entry 23): the buffer is emptied, so that a read from it would be a draw. -/
def lateCompletion (e : Edge) (s : State) : State :=
  if e.done.isSome then setTransport { loseHold s.transport with rx := [] } s else s

/-- A completion at a reset edge: no effect on the FSM (R241), but the transport, which the reset does not reach
(R242), has completed the outstanding command all the same, so a `T_REQ` releases the bus (R31). DEDUCED (log
entry 12). -/
def completeUnderReset (e : Edge) (s : State) : State :=
  match e.done, outstanding s.fsm with
  | some sent, some cmd => setTransport (transportEffect cmd sent s.transport) s
  | some _, none => lateCompletion e s
  | none, _ => s

/-- A reset may leave a transaction open exactly in these states (R247), and in `S_REQ` not when `T_REQ` completes
at the reset edge. -/
def leavesOpen (e : Edge) (r : Fsm) : Bool :=
  match r.state with
  | .sIdle => false
  | .sBegin => true
  | .sWrite => true
  | .sEnd => true
  | .sReq => e.done.isNone
  | .sRdLo => false
  | .sRdHi => false

/-- What a reset of the block means for the transport: nothing but that a transaction may be left open. The bus is
whatever it was, so a reset in `S_REQ` leaves it held (R31, R242, R247). -/
def abandonBus (e : Edge) (r : Fsm) (t : Transport) : Transport :=
  if leavesOpen e r then { t with ready := false } else t

/-- `rst = 1`: every register of R21 takes its reset value; a pseudo-operation in progress is cut and has no
result (R240, R247, R253; log entry 10). The decoders' inputs are not affected (R240). -/
def resetBlock (e : Edge) (s : State) : State :=
  setCaller { s.caller with chan := .idle } (setTransport (abandonBus e s.fsm s.transport) (setFsm Fsm.reset s))

/-- What other agents do to the transport while no transaction is in progress: traffic leaves nothing known of
the receive buffer; initialisation makes the transport ready and closes what was open (R243, R247; log entry 18). -/
def outsideEffect (o : Outside) (s : State) : State :=
  match o with
  | .quiet => s
  | .traffic => setTransport { loseHold s.transport with rx := [] } s
  | .initialise => setTransport { s.transport with rx := [], bus := .released, ready := true } s

/-- Another source handles the transport during a transaction (R244, U9). -/
def interleaved (e : Edge) (s : State) : Bool := s.fsm.busy && e.outside != .quiet

/-! ### One clock edge -/

/-- The coming edge; silent after the last listed one (log entry 1). -/
def nextEdge (s : State) : Edge :=
  match s.inputs with
  | [] => Edge.silent
  | e :: _ => e

/-- The edge is taken from the list. -/
def dropEdge (s : State) : State := setInputs s.inputs.tail s

/-- The reset edge: no request takes effect, nor a completion on the block (R241). -/
def resetEdge (e : Edge) (s : State) : State := outsideEffect e.outside (resetBlock e (completeUnderReset e s))

/-- What the transport and the channel layer do at an edge, decided by the state BEFORE it (R215): while the
FSM is busy the completion, if there is one; while it is idle a completion is ignored (R130) and `VOUT`'s
pending request is accepted. `t` is the state with the caller's operation done. -/
def closeEdge (e : Edge) (before t : State) : State :=
  if before.fsm.busy then
    match e.done with
    | some sent => completeCommand sent t
    | none => t
  else presentMode (lateCompletion e t)

/-! ### Operand bundles at an edge -/

/-- The bundle of a caller's request. -/
def CallerRequest.bundle : CallerRequest → Bundle
  | .rq d => .rq d
  | .channel d => .channel d

/-- The bundles on the decoders' ports at an edge. -/
def Edge.decodes (e : Edge) : List Bundle := (e.l11.map Bundle.l11).toList ++ (e.l16.map Bundle.l16).toList

/-- All the bundles at an edge: one at most for each unit (R91). They do not interfere, so their order is free. -/
def Edge.bundles (e : Edge) : List Bundle := e.decodes ++ (e.request.map CallerRequest.bundle).toList

/-- An edge at which the caller presents a bundle on its port, and nothing else. -/
def presenting (b : Bundle) : Edge :=
  match b with
  | .rq d => { Edge.silent with request := some (.rq d) }
  | .channel d => { Edge.silent with request := some (.channel d) }
  | .l11 w => { Edge.silent with l11 := some w }
  | .l16 xw => { Edge.silent with l16 := some xw }

/-- A bundle is placed on its port at the next edge; none leaves a silent edge (log entry 2). -/
def placeOperation (b : Option Bundle) (s : State) : State :=
  match b with
  | some b => setInputs (presenting b :: s.inputs) s
  | none => setInputs (Edge.silent :: s.inputs) s

end Sys2Proof.Machine
end

