-- ==== Sys2Proof/Machine/Channels.lean ====
section
/-! DEFINITION. The meanings of the five pseudo-operations (R192 to R196): the step that begins one. Its
requests run as any request does; `completeCommand` and `presentMode` carry the expansion on (R197). -/

namespace Sys2Proof.Machine

/-- `VIN` (R192). -/
def execVin (s : State) : Host.Outcome State Fault Refusal := .next (startChannel .vin s)

/-- `VOUT` (R193). -/
def execVout (s : State) : Host.Outcome State Fault Refusal := .next (startChannel .vout s)

/-- `TEMP` (R194). -/
def execTemp (s : State) : Host.Outcome State Fault Refusal := .next (startChannel .temp s)

/-- `IOUT` (R195). -/
def execIout (s : State) : Host.Outcome State Fault Refusal := .next (startChannel .iout s)

/-- `POUT` (R196). -/
def execPout (s : State) : Host.Outcome State Fault Refusal := .next (startChannel .pout s)

end Sys2Proof.Machine
end

