-- ==== Sys2Proof/Machine/Decoders.lean ====
section
/-! DEFINITION. The meanings of `DEC11` and `DEC16`: the caller drives the decoder's input; the result is the
decoder's output, `State.l11Q` or `State.l16Q`, at once and at any time, also while the FSM is busy (R254). -/

namespace Sys2Proof.Machine

/-- `DEC11 w` (R150, R159). -/
def execDec11 (w : Word) (s : State) : Host.Outcome State Fault Refusal :=
  .next (setCaller (driveL11 w s.caller) s)

/-- `DEC16 w, x` (R170, R179). -/
def execDec16 (w : Word) (x : RawExp) (s : State) : Host.Outcome State Fault Refusal :=
  .next (setCaller (driveL16 w x s.caller) s)

end Sys2Proof.Machine
end

