-- ==== Sys2Proof/Machine/Request.lean ====
section
/-! DEFINITION. The meanings of `REQ1` and `REQ2` (R113 to R116): the step that presents the request. Each
transport command that follows is a step of its own, `completeCommand` (D21). -/

namespace Sys2Proof.Machine

/-- `REQ1 a, c` (R114, R116, R125). -/
def execReq1 (a : DevAddr) (c : Byte) (s : State) : Host.Outcome State Fault Refusal :=
  .next (presentRequest false a c s)

/-- `REQ2 a, c` (R115, R116, R125). -/
def execReq2 (a : DevAddr) (c : Byte) (s : State) : Host.Outcome State Fault Refusal :=
  .next (presentRequest true a c s)

end Sys2Proof.Machine
end

