-- ==== Sys2Proof/Machine/Dispatch.lean ====
section
/-! DEFINITION. The dispatch: one arm per constructor of `Instr`. -/

namespace Sys2Proof.Machine

def exec (i : Instr) (s : State) : Host.Outcome State Fault Refusal :=
  match i with
  | .req1 a c => Sys2Proof.Machine.execReq1 a c s
  | .req2 a c => Sys2Proof.Machine.execReq2 a c s
  | .dec11 w => Sys2Proof.Machine.execDec11 w s
  | .dec16 w x => Sys2Proof.Machine.execDec16 w x s
  | .vin => Sys2Proof.Machine.execVin s
  | .vout => Sys2Proof.Machine.execVout s
  | .temp => Sys2Proof.Machine.execTemp s
  | .iout => Sys2Proof.Machine.execIout s
  | .pout => Sys2Proof.Machine.execPout s

end Sys2Proof.Machine
end

