-- ==== Sys2Proof/Machine/Present.lean ====
section
/-! DEFINITION. Running the bundles presented at one edge: each is decoded and executed (R91, R254). -/

namespace Sys2Proof.Machine

/-- The bundles in turn. One that the decoder rejects is refused by name. -/
def runBundles : List Bundle → State → Host.Outcome State Fault Refusal
  | [], s => .next s
  | b :: bs, s =>
    match decode b with
    | .error r => .refused (.rejected r)
    | .ok i =>
      match exec i s with
      | .next t => runBundles bs t
      | .fault f => .fault f
      | .refused r => .refused r

/-- What follows a next state. -/
def andThen (o : Host.Outcome State Fault Refusal) (f : State → State) : Host.Outcome State Fault Refusal :=
  match o with
  | .next t => .next (f t)
  | .fault r => .fault r
  | .refused r => .refused r

/-- A reset edge: the decoders, which no reset reaches (R159, R179, R240), follow their inputs; a request is not
accepted (R241). -/
def runReset (e : Edge) (s : State) : Host.Outcome State Fault Refusal :=
  andThen (runBundles e.decodes s) (resetEdge e)

/-- Any other edge: the caller's bundles, then what the transport and the channel layer do. -/
def runEdge (e : Edge) (s : State) : Host.Outcome State Fault Refusal :=
  andThen (runBundles e.bundles (outsideEffect e.outside s)) (closeEdge e s)

end Sys2Proof.Machine
end

