-- ==== Sys2Proof/Machine/Step.lean ====
section
/-! DEFINITION. One step: one clock edge with the environment's inputs at it (R6, R111; D21). -/

namespace Sys2Proof.Machine

/-- One clock edge: reset first (R130, R241), then the caller's bundles, the transport's completion and the
channel layer. -/
def step (s : State) : Host.Outcome State Fault Refusal :=
  if (nextEdge s).rst then runReset (nextEdge s) (dropEdge s)
  else if interleaved (nextEdge s) s then .fault .interleavedBus
  else runEdge (nextEdge s) (dropEdge s)

/-- `s` with a table word presented on its port at the next edge, and nothing else at that edge. -/
def State.withFetchWord (s : State) (nbits w : Nat) : State := placeOperation (tableBundle nbits w) s

end Sys2Proof.Machine
end

