-- ==== Sys2Proof/Machine/Ports.lean ====
section
/-! DEFINITION. The port-level binding (R6, R111, R112, R117): the FSM's pins, one clock edge of it written
from the signals alone, and the pins that the event-level state and an edge drive. The event level is
normative (R6); this file says what the binding is, and that the two agree is a statement. -/

namespace Sys2Proof.Machine

/-- The 3-bit code of a state (R24; D5). -/
def FsmState.code : FsmState → BitVec 3
  | .sIdle => 0
  | .sBegin => 1
  | .sWrite => 2
  | .sEnd => 3
  | .sReq => 4
  | .sRdLo => 5
  | .sRdHi => 6

/-- The 3-bit code `t_op` of a transport command (R112). -/
def TCmd.code : TCmd → BitVec 3
  | .tBegin _ => 0
  | .tWrite _ => 1
  | .tEnd _ => 2
  | .tReq _ _ _ => 3
  | .tAvail => 4
  | .tRead => 5

/-- The inputs of the FSM at a clock edge (R111, R112). -/
structure PortIn where
  rst : Bool
  reqValid : Bool
  reqLen2 : Bool
  reqAddr : DevAddr
  reqCmd : Byte
  tDone : Bool
  tCount : BitVec 2
  tRdata : Byte
  tAvail : Bool
  deriving DecidableEq, Repr

/-- The outputs of the FSM; `none` where R117 says don't care (log entry 15). -/
structure PortOut where
  reqReady : Bool
  busy : Bool
  done : Bool
  err : Bool
  rawWord : Word
  tValid : Bool
  tOp : Option (BitVec 3)
  tAddr : Option DevAddr
  tWdata : Option Byte
  tLen : Option (BitVec 2)
  tStop : Option Bool
  deriving DecidableEq, Repr

/-- `{LEN2_R, ~LEN2_R}`, the 2-bit values 1 and 2 (R121). -/
def lenPins (len2 : Bool) : BitVec 2 := BitVec.ofBool len2 ++ BitVec.ofBool (!len2)

/-- `t_count`: the answer `k` saturated, 3 for three or more (R112; D26). -/
def saturate (k : Nat) : BitVec 2 := BitVec.ofNat 2 (min k 3)

/-- The caller-side outputs, common to every state (R111). -/
def callerPins (r : Fsm) : PortOut :=
  { reqReady := r.reqReady, busy := r.busy, done := r.done, err := r.err, rawWord := r.rawWord,
    tValid := r.busy, tOp := none, tAddr := none, tWdata := none, tLen := none, tStop := none }

/-- The outputs, a function of the registers (R111, R117). -/
def portOut (r : Fsm) : PortOut :=
  match r.state with
  | .sIdle => callerPins r
  | .sBegin => { callerPins r with tOp := some 0, tAddr := some r.addrR }
  | .sWrite => { callerPins r with tOp := some 1, tWdata := some r.cmdR }
  | .sEnd => { callerPins r with tOp := some 2, tStop := some false }
  | .sReq => { callerPins r with tOp := some 3, tAddr := some r.addrR, tLen := some (lenPins r.len2R), tStop := some true }
  | .sRdLo => { callerPins r with tOp := some 5 }
  | .sRdHi => { callerPins r with tOp := some 5 }

/-- The registers after a rising edge of `clk` (R111, R121, R130). `t_avail` is not read (R127). -/
def clockEdge (p : PortIn) (r : Fsm) : Fsm :=
  if p.rst then Fsm.reset
  else match r.state, p.reqValid, p.tDone with
    | .sIdle, true, _ =>
      { r with addrR := p.reqAddr, cmdR := p.reqCmd, len2R := p.reqLen2, done := false, err := false, state := .sBegin }
    | .sIdle, false, _ => r
    | .sBegin, _, true => { r with state := .sWrite }
    | .sWrite, _, true => { r with state := .sEnd }
    | .sEnd, _, true => { r with state := .sReq }
    | .sReq, _, true => { r with err := p.tCount != lenPins r.len2R, state := .sRdLo }
    | .sRdLo, _, true =>
      if r.len2R then { r with rawWord := 0#8 ++ p.tRdata, state := .sRdHi }
      else { r with rawWord := 0#8 ++ p.tRdata, done := true, state := .sIdle }
    | .sRdHi, _, true => { r with rawWord := p.tRdata ++ r.rawWord.extractLsb' 0 8, done := true, state := .sIdle }
    | .sBegin, _, false => r
    | .sWrite, _, false => r
    | .sEnd, _, false => r
    | .sReq, _, false => r
    | .sRdLo, _, false => r
    | .sRdHi, _, false => r

/-- The request an operation puts on the request port first, none for a decode (R97). -/
def firstRequest : Instr → Option (Bool × DevAddr × Byte)
  | .req1 a c => some (false, a, c)
  | .req2 a c => some (true, a, c)
  | .dec11 _ => none
  | .dec16 _ _ => none
  | .vin => some (true, Config.devAddr, Channel.command .vin)
  | .vout => some (true, Config.devAddr, Channel.command .vout)
  | .temp => some (true, Config.devAddr, Channel.command .temp)
  | .iout => some (true, Config.devAddr, Channel.command .iout)
  | .pout => some (true, Config.devAddr, Channel.command .pout)

/-- What stands on the request port at an edge: the channel layer's mode request while that is pending,
nothing while the layer waits, else the caller's request (log entry 9). -/
def requestPins (e : Edge) (s : State) : Option (Bool × DevAddr × Byte) :=
  match s.caller.chan with
  | .modePending _ _ => some (false, Config.devAddr, modeCommand)
  | .word _ => none
  | .mode _ _ => none
  | .idle =>
    match e.request with
    | none => none
    | some q =>
      match decode q.bundle with
      | .ok i => firstRequest i
      | .error _ => none

/-- The pins at an edge, from the event-level state (R111, R112, R124). What no rule reads at an edge (the operands
without `req_valid`, `t_count` and `t_rdata` but for the answer of `T_REQ` and `T_READ`) has a value of
convenience: DESIGN CHOICE (log entry 24). -/
def pinsOf (e : Edge) (s : State) : PortIn :=
  let q := requestPins e s
  { rst := e.rst
    reqValid := q.isSome
    reqLen2 := (q.map (·.1)).getD false
    reqAddr := (q.map (·.2.1)).getD 0
    reqCmd := (q.map (·.2.2)).getD 0
    tDone := e.done.isSome
    tCount := saturate (e.done.getD []).length
    tRdata := readAnswer s.transport
    tAvail := e.avail }

end Sys2Proof.Machine
end

