-- ==== Sys2Proof/Safety.lean ====
section
/-! DEFINITION. The terms claims use: runs, the named premises of R255, and the invariants that rule out
states no run reaches. -/

namespace Sys2Proof

open Sys2Proof.Machine

/-- After `k` steps from `s`, each of which answered a next state, the machine is in `t`. -/
def Reaches : Nat → State → State → Prop
  | 0, s, t => s = t
  | k + 1, s, t => ∃ s', step s = .next s' ∧ Reaches k s' t

/-! ### The premises of R255 -/

/-- `CLEAN_IDLE`: `FSM_STATE = S_IDLE`. -/
def cleanIdle (s : State) : Bool := s.fsm.state == .sIdle

/-- `TRANSPORT_READY`: the transport and bus have been initialised and no abandoned transaction is open. -/
def transportReady (s : State) : Bool := s.transport.ready

/-- `SOLE_OWNER`, over every listed edge: no agent but this FSM hands commands to the transport. -/
def soleOwner (s : State) : Bool := s.inputs.all (fun e => e.outside == .quiet)

/-- No listed edge resets the block. -/
def noReset (s : State) : Bool := s.inputs.all (fun e => !e.rst)

/-- The decoder accepts what an edge presents, if it presents anything. -/
def opDecodes (e : Edge) : Bool :=
  match e.request with
  | none => true
  | some q =>
    match decode q.bundle with
    | .ok _ => true
    | .error _ => false

/-- The decoder accepts every listed request. -/
def opsDecode (s : State) : Bool := s.inputs.all opDecodes

/-- At the coming edge the transport completes a command, the device having sent `sent`; the edge does not reset
the block, no one else handles the transport, and the decoder accepts what the caller presents, if anything. -/
abbrev CompletesNow (s : State) (sent : List Byte) : Prop :=
  (nextEdge s).rst = false ∧ (nextEdge s).outside = .quiet ∧ opDecodes (nextEdge s) = true ∧
    (nextEdge s).done = some sent

/-- The same, but the transport completes nothing. -/
abbrev WaitsNow (s : State) : Prop :=
  (nextEdge s).rst = false ∧ (nextEdge s).outside = .quiet ∧ opDecodes (nextEdge s) = true ∧
    (nextEdge s).done = none

/-- `TRANSPORT_LIVE`: whenever a command is outstanding, an edge at which the transport completes it comes
after some steps that leave the FSM as it is. -/
def TransportLive (s : State) : Prop :=
  ∀ k t, Reaches k s t → t.fsm.busy = true →
    ∃ j u sent, Reaches j t u ∧ u.fsm = t.fsm ∧ (nextEdge u).done = some sent

/-- `COMPLETE_READS`: every `T_REQ` of the run is answered with `k = n`. -/
def CompleteReads (s : State) : Prop :=
  ∀ k t sent, Reaches k s t → t.fsm.state = .sReq → (nextEdge t).done = some sent →
    sent.length = expectedLen t.fsm.len2R

/-! ### Schedules of one request -/

/-- An edge at which the transport completes a command, the device having sent `sent`, and nothing else. -/
def completing (sent : List Byte) : Edge := { Edge.silent with done := some sent }

/-- The completions of a run of a request of `n` bytes, the device having sent `sent` when `T_REQ` completes
(R113): one per transport command. -/
def requestCompletions (len2 : Bool) (sent : List Byte) : List Edge :=
  [completing [], completing [], completing [], completing sent, completing []] ++
    (if len2 then [completing []] else [])

/-- What the device has sent at each completion of some edges, in order. -/
def answers (es : List Edge) : List (List Byte) := es.filterMap (·.done)

/-- Edges with `n` completions, the last edge being one: between them any number of edges may pass and the caller
may present anything the decoder accepts; none resets and no one else handles the transport. -/
abbrev Schedule (n : Nat) (es : List Edge) : Prop :=
  (∀ e ∈ es, e.rst = false ∧ e.outside = .quiet ∧ opDecodes e = true) ∧ (answers es).length = n ∧
    (es.getLast?.bind (·.done)).isSome = true

/-- The `i`-th byte (from 0) that `T_READ` gives of what the device sent; beyond it a draw, `d` counting the
draws before the transaction (R124). -/
def receivedByte (sent : List Byte) (d i : Nat) : Byte :=
  match sent[i]? with
  | some b => b
  | none => Config.draw (d + (i - sent.length))

/-- The result word of a request (R114, R115, R124). -/
def resultWord (len2 : Bool) (sent : List Byte) (d : Nat) : Word :=
  (if len2 then receivedByte sent d 1 else 0) ++ receivedByte sent d 0

/-- How many draws a request takes (R124). -/
def drawsTaken (len2 : Bool) (sent : List Byte) : Nat := expectedLen len2 - sent.length

/-! ### The commands of a run -/

/-- The commands of a request, in order (R113). -/
def requestCommands (len2 : Bool) (a : DevAddr) (c : Byte) : List TCmd :=
  [.tBegin a, .tWrite c, .tEnd false, .tReq a (expectedLen len2) true, .tRead] ++
    (if len2 then [.tRead] else [])

/-- How many commands of the run in progress, or of the run that ended, have been completed (R24, R117). -/
def completedCount (r : Fsm) : Nat :=
  match r.state with
  | .sIdle => if r.done then 4 + expectedLen r.len2R else 0
  | .sBegin => 0
  | .sWrite => 1
  | .sEnd => 2
  | .sReq => 3
  | .sRdLo => 4
  | .sRdHi => 5

/-- The commands of the present run completed so far. -/
def completedCommands (r : Fsm) : List TCmd :=
  (requestCommands r.len2R r.addrR r.cmdR).take (completedCount r)

/-! ### Invariants -/

/-- The FSM's registers agree with one another: `DONE` and `BUSY` are never both 1 (R26); `S_RD_HI` is taken
only with `LEN2_R = 1` (R24) and with the high byte still zero (R23); `ERR` is 0 from acceptance to the step
out of `S_REQ` (R27). -/
structure FsmInv (r : Fsm) : Prop where
  done_idle : r.done = true → r.busy = false
  hi_two : r.state = .sRdHi → r.len2R = true
  hi_zero : r.state = .sRdHi → r.rawWord.extractLsb' 8 8 = 0
  err_clear : r.state = .sBegin ∨ r.state = .sWrite ∨ r.state = .sEnd ∨ r.state = .sReq → r.err = false

/-- The channel layer agrees with the FSM: while it waits, the FSM runs its request with the channel's operands
(R191); while the mode request is pending, the copy is the completed request's result (R193); while a
pseudo-operation runs, there is no result (R253). -/
structure ChannelInv (s : State) : Prop where
  word_runs : ∀ ch, s.caller.chan = .word ch →
    s.fsm.busy = true ∧ s.fsm.addrR = Config.devAddr ∧ s.fsm.cmdR = ch.command ∧ s.fsm.len2R = true
  pending_copied : ∀ w e1, s.caller.chan = .modePending w e1 →
    s.fsm.busy = false ∧ s.fsm.done = true ∧ s.fsm.rawWord = w ∧ s.fsm.err = e1
  mode_runs : ∀ w e1, s.caller.chan = .mode w e1 →
    s.fsm.busy = true ∧ s.fsm.addrR = Config.devAddr ∧ s.fsm.cmdR = modeCommand ∧ s.fsm.len2R = false
  no_result : s.caller.chan ≠ .idle → s.caller.result = none

/-- The transport agrees with the FSM: the bus is held for the whole time `FSM_STATE = S_REQ` (R31), released once
the read request has completed and still released between the two transactions of `VOUT` (R246); the record of completed commands ends with exactly those of the
present run (R113, R129). -/
structure BusInv (s : State) : Prop where
  req_held : s.fsm.state = .sReq → s.transport.bus = .held
  read_released : s.fsm.state = .sRdLo ∨ s.fsm.state = .sRdHi → s.transport.bus = .released
  pending_released : ∀ w e1, s.caller.chan = .modePending w e1 → s.transport.bus = .released
  log_run : s.fsm.busy = true ∨ s.fsm.done = true → completedCommands s.fsm <:+ s.transport.log

/-- The three together. -/
structure MachineInv (s : State) : Prop where
  fsm : FsmInv s.fsm
  channel : ChannelInv s
  bus : BusInv s

end Sys2Proof
end

