-- ==== Sys2Proof/Certificates/Slice0/Obligations.lean ====
section
/-! DEFINITION. The statements for the provers, from the spec's numbered rules. A premise `caller.chan = .idle`
(or `portFree`) says that no pseudo-operation has the request port (log entry 9); a premise on `nextEdge` says
what the environment drives at the coming edge (log entry 1). `Schedule n es`: edges with `n` completions in any spacing. -/

open Sys2Proof Sys2Proof.Machine

/-! ### Reset -/

/-- R32, R240: the reset state, and what every register holds after an edge with `rst = 1`, whatever the state. The decoders are
not affected: their outputs are the functions of what their inputs carry at that edge (R159, R179), a value the caller drives there
or else the old one. The transport's buffer is not reached. -/
def Obligations.ResetGivesEveryRegisterItsValue : Prop :=
  State.reset.fsm = ⟨.sIdle, 0, 0, false, 0, false, false⟩ ∧
  ∀ s, (nextEdge s).rst = true → ∃ t, step s = .next t ∧
    t.fsm = ⟨.sIdle, 0, 0, false, 0, false, false⟩ ∧ t.fsm.busy = false ∧ t.fsm.reqReady = true ∧
    (portOut t.fsm).tValid = false ∧ t.l11Q = dec11 ((nextEdge s).l11.getD s.caller.l11Word) ∧
    (∀ xw, (nextEdge s).l16 = some xw → t.l16Q = dec16 (xw.extractLsb' 0 16) (xw.extractLsb' 16 5)) ∧
    ((nextEdge s).l16 = none → t.l16Q = s.l16Q) ∧
    ((nextEdge s).outside = .quiet → (nextEdge s).done = none → t.transport.rx = s.transport.rx)

/-- R241: at a reset edge a request has no effect at all and a completion none on the registers and the caller; at the next edge a
request is accepted. -/
def Obligations.ResetBeatsRequestAndCompletion : Prop :=
  ∀ s e rest, s.inputs = e :: rest → e.rst = true →
    (∀ q, step { s with inputs := { e with request := q } :: rest } = step s) ∧
    (∀ q done, ∃ t u, step s = .next t ∧ step { s with inputs := { e with request := q, done := done } :: rest } = .next u ∧
      u.fsm = t.fsm ∧ u.caller = t.caller ∧ u.inputs = t.inputs) ∧
    (∀ d e2 rest2, rest = e2 :: rest2 → e2.rst = false → e2.request = some (.rq d) →
      ∃ u, Reaches 2 s u ∧ u.fsm.state = .sBegin ∧ u.fsm.addrR = rqAddr d ∧ u.fsm.cmdR = rqCmd d ∧ u.fsm.len2R = rqLen2 d)

/-- R247, R31, R242: a reset in `S_BEGIN` to `S_REQ` leaves a transaction open (the transport no longer ready: the model's
bookkeeping of R247's "may", log entry 21), and the bus as it was, in `S_REQ` held (log entry 12), but released if `T_REQ` completes
at that very edge (the model's reading, log entry 12); a completion that arrives in `S_IDLE` is ignored by the block; and the channel
layer after a reset (the model's choice, log entry 10): a pseudo-operation in progress is cut without a result, a delivered result
stays. -/
def Obligations.ResetInsideATransaction : Prop :=
  (∀ s, (nextEdge s).rst = true → (nextEdge s).outside = .quiet →
    ((nextEdge s).done = none →
      (s.fsm.state = .sBegin ∨ s.fsm.state = .sWrite ∨ s.fsm.state = .sEnd ∨ s.fsm.state = .sReq) →
      ∃ t, step s = .next t ∧ t.transport.ready = false ∧ t.transport.bus = s.transport.bus ∧ outstanding t.fsm = none ∧
        (s.fsm.state = .sReq → BusInv s → t.transport.bus = .held)) ∧
    (∀ sent, (nextEdge s).done = some sent → s.fsm.state = .sReq →
      ∃ t, step s = .next t ∧ t.transport.bus = .released ∧ t.transport.ready = s.transport.ready ∧ outstanding t.fsm = none)) ∧
  (∀ s sent, CompletesNow s sent → (nextEdge s).request = none → s.fsm.state = .sIdle → s.caller.chan = .idle →
    ∃ t, step s = .next t ∧ t.fsm = s.fsm ∧ t.caller.chan = s.caller.chan ∧ t.caller.result = s.caller.result ∧
      t.transport.log = s.transport.log) ∧
  (∀ s, (nextEdge s).rst = true → ∃ t, step s = .next t ∧ t.caller.chan = .idle ∧ t.caller.result = s.caller.result ∧
    (ChannelInv s → s.caller.chan ≠ .idle → t.caller.result = none))

/-! ### Acceptance -/

/-- R116: both request operations, accepted in `S_IDLE`: the whole new register file; and with no request nothing changes. -/
def Obligations.AcceptedRequestLatchesItsOperands : Prop :=
  (∀ s a c, s.fsm.state = .sIdle → s.caller.chan = .idle →
    (∃ t, exec (.req1 a c) s = .next t ∧ t.fsm = ⟨.sBegin, a, c, false, s.fsm.rawWord, false, false⟩) ∧
    (∃ t, exec (.req2 a c) s = .next t ∧ t.fsm = ⟨.sBegin, a, c, true, s.fsm.rawWord, false, false⟩)) ∧
  (∀ s, s.fsm.state = .sIdle → s.caller.chan = .idle → (nextEdge s).rst = false → (nextEdge s).request = none →
    ∃ t, step s = .next t ∧ t.fsm = s.fsm)

/-- R125: a request presented while `BUSY = 1` has no effect at all and `req_ready` is 0. -/
def Obligations.RequestWhileBusyIsNotAccepted : Prop :=
  ∀ s a c, s.fsm.busy = true →
    s.fsm.reqReady = false ∧ exec (.req1 a c) s = .next s ∧ exec (.req2 a c) s = .next s

/-- Model's choice (log entry 9): a request or pseudo-operation presented while the port is taken, by the FSM or by a pseudo-operation
in progress, has no effect. -/
def Obligations.TakenPortTurnsEveryRequestAway : Prop :=
  ∀ s a c, portFree s = false → ∀ i ∈ [Instr.req1 a c, .req2 a c, .vin, .vout, .temp, .iout, .pout], exec i s = .next s

/-- R193, R197: the pending mode request of `VOUT`, one byte from command 0x20 of `DEV_ADDR`, is accepted at the next edge (that
the layer presents it there is the model's choice, log entry 8), and whatever the caller presents there is turned away (the model's
reading of R197 and R222, log entry 9). -/
def Obligations.PendingModeRequestIsAccepted : Prop :=
  ∀ s w e1, s.caller.chan = .modePending w e1 → s.fsm.state = .sIdle → (nextEdge s).rst = false → opDecodes (nextEdge s) = true →
    ∃ t, step s = .next t ∧ t.fsm = ⟨.sBegin, Config.devAddr, 0x20, false, s.fsm.rawWord, false, false⟩ ∧ t.caller.chan = .mode w e1

/-! ### The steps of the FSM -/

/-- R118. -/
def Obligations.StepOutOfBegin : Prop :=
  ∀ s sent, CompletesNow s sent → s.fsm.state = .sBegin →
    outstanding s.fsm = some (.tBegin s.fsm.addrR) ∧ ∃ t, step s = .next t ∧ t.fsm = { s.fsm with state := .sWrite }

/-- R119. -/
def Obligations.StepOutOfWrite : Prop :=
  ∀ s sent, CompletesNow s sent → s.fsm.state = .sWrite →
    outstanding s.fsm = some (.tWrite s.fsm.cmdR) ∧ ∃ t, step s = .next t ∧ t.fsm = { s.fsm with state := .sEnd }

/-- R120: with `stop` the constant 0; no state issues `T_END(1)`. -/
def Obligations.StepOutOfEnd : Prop :=
  (∀ s sent, CompletesNow s sent → s.fsm.state = .sEnd →
    outstanding s.fsm = some (.tEnd false) ∧ ∃ t, step s = .next t ∧ t.fsm = { s.fsm with state := .sReq }) ∧
  (∀ r : Fsm, outstanding r ≠ some (.tEnd true))

/-- R121: for every answer `k`, with `stop` the constant 1; and the port-level comparison is the same test. -/
def Obligations.StepOutOfReq : Prop :=
  (∀ s sent, CompletesNow s sent → s.fsm.state = .sReq →
    outstanding s.fsm = some (.tReq s.fsm.addrR (1 + s.fsm.len2R.toNat) true) ∧
    ∃ t, step s = .next t ∧
      t.fsm = { s.fsm with err := decide (sent.length ≠ 1 + s.fsm.len2R.toNat), state := .sRdLo }) ∧
  (∀ (k : Nat) (len2 : Bool), (saturate k ≠ BitVec.ofBool len2 ++ BitVec.ofBool (!len2)) ↔ k ≠ 1 + len2.toNat)

/-- R122. -/
def Obligations.StepOutOfRdLo : Prop :=
  ∀ s sent, CompletesNow s sent → s.fsm.state = .sRdLo →
    ∃ t, step s = .next t ∧
      (s.fsm.len2R = true → t.fsm = { s.fsm with rawWord := 0#8 ++ readAnswer s.transport, state := .sRdHi }) ∧
      (s.fsm.len2R = false → t.fsm = { s.fsm with rawWord := 0#8 ++ readAnswer s.transport, done := true, state := .sIdle })

/-- R123. -/
def Obligations.StepOutOfRdHi : Prop :=
  ∀ s sent, CompletesNow s sent → s.fsm.state = .sRdHi →
    ∃ t, step s = .next t ∧
      t.fsm = { s.fsm with rawWord := readAnswer s.transport ++ s.fsm.rawWord.extractLsb' 0 8, done := true, state := .sIdle }

/-- R117: the command outstanding in each state, as a command and on the pins; without a completion the FSM stays and changes
nothing. -/
def Obligations.OutstandingCommandOfEachState : Prop :=
  (∀ r : Fsm, (portOut r).tValid = r.busy ∧
    (r.state = .sIdle → outstanding r = none) ∧
    (r.state = .sBegin → outstanding r = some (.tBegin r.addrR) ∧ (portOut r).tOp = some 0 ∧ (portOut r).tAddr = some r.addrR) ∧
    (r.state = .sWrite → outstanding r = some (.tWrite r.cmdR) ∧ (portOut r).tOp = some 1 ∧ (portOut r).tWdata = some r.cmdR) ∧
    (r.state = .sEnd → outstanding r = some (.tEnd false) ∧ (portOut r).tOp = some 2 ∧ (portOut r).tStop = some false) ∧
    (r.state = .sReq → outstanding r = some (.tReq r.addrR (1 + r.len2R.toNat) true) ∧ (portOut r).tOp = some 3 ∧
      (portOut r).tAddr = some r.addrR ∧ (portOut r).tLen = some (BitVec.ofNat 2 (1 + r.len2R.toNat)) ∧
      (portOut r).tStop = some true) ∧
    (r.state = .sRdLo ∨ r.state = .sRdHi → outstanding r = some .tRead ∧ (portOut r).tOp = some 5)) ∧
  (∀ s, WaitsNow s → s.fsm.busy = true → ∃ t, step s = .next t ∧ t.fsm = s.fsm)

/-- R130: the complete transition table, over every step; `requestPins` is the request on the port at the edge. -/
def Obligations.TransitionTable : Prop :=
  ∀ s t, step s = .next t →
    ((nextEdge s).rst = true → t.fsm = Fsm.reset) ∧
    ((nextEdge s).rst = false →
      (s.fsm.state = .sIdle → requestPins (nextEdge s) s = none → t.fsm = s.fsm) ∧
      (s.fsm.state = .sIdle → ∀ len2 a c, requestPins (nextEdge s) s = some (len2, a, c) →
        t.fsm = ⟨.sBegin, a, c, len2, s.fsm.rawWord, false, false⟩) ∧
      (s.fsm.state ≠ .sIdle → (nextEdge s).done = none → t.fsm = s.fsm) ∧
      (∀ sent, (nextEdge s).done = some sent →
        (s.fsm.state = .sBegin → t.fsm = { s.fsm with state := .sWrite }) ∧
        (s.fsm.state = .sWrite → t.fsm = { s.fsm with state := .sEnd }) ∧
        (s.fsm.state = .sEnd → t.fsm = { s.fsm with state := .sReq }) ∧
        (s.fsm.state = .sReq → t.fsm = { s.fsm with err := decide (sent.length ≠ 1 + s.fsm.len2R.toNat), state := .sRdLo }) ∧
        (s.fsm.state = .sRdLo → s.fsm.len2R = false →
          t.fsm = { s.fsm with rawWord := 0#8 ++ readAnswer s.transport, done := true, state := .sIdle }) ∧
        (s.fsm.state = .sRdLo → s.fsm.len2R = true →
          t.fsm = { s.fsm with rawWord := 0#8 ++ readAnswer s.transport, state := .sRdHi }) ∧
        (s.fsm.state = .sRdHi →
          t.fsm = { s.fsm with rawWord := readAnswer s.transport ++ s.fsm.rawWord.extractLsb' 0 8, done := true, state := .sIdle })))

/-- The port-level machine refines the event level: every step that answers a next state is one clock edge of the FSM under the pins
of R111 and R112. -/
def Obligations.EveryStepIsOneClockEdge : Prop :=
  ∀ s t, step s = .next t → t.fsm = clockEdge (pinsOf (nextEdge s) s) s.fsm

/-- R24: the seven states and their codes; one command outstanding in each but `S_IDLE`; the states follow one another in the fixed
order, `S_RD_HI` taken exactly when `LEN2_R = 1`, out of a state other than `S_IDLE` only on a completion; else only reset moves. -/
def Obligations.StatesFollowTheFixedOrder : Prop :=
  [FsmState.sIdle, .sBegin, .sWrite, .sEnd, .sReq, .sRdLo, .sRdHi].map FsmState.code = [0, 1, 2, 3, 4, 5, 6] ∧
  (∀ st : FsmState, st ∈ [FsmState.sIdle, .sBegin, .sWrite, .sEnd, .sReq, .sRdLo, .sRdHi]) ∧
  (∀ r : Fsm, (outstanding r).isSome = decide (r.state ≠ .sIdle)) ∧
  ∀ s t, step s = .next t → (nextEdge s).rst = false →
    (s.fsm.state ≠ .sIdle → t.fsm.state ≠ s.fsm.state → (nextEdge s).done.isSome = true) ∧
    (t.fsm.state = s.fsm.state ∨
      (s.fsm.state, t.fsm.state) ∈ [(FsmState.sIdle, FsmState.sBegin), (.sBegin, .sWrite), (.sWrite, .sEnd), (.sEnd, .sReq), (.sReq, .sRdLo)] ∨
      (s.fsm.state = .sRdLo ∧ s.fsm.len2R = true ∧ t.fsm.state = .sRdHi) ∨
      (s.fsm.state = .sRdLo ∧ s.fsm.len2R = false ∧ t.fsm.state = .sIdle) ∨
      (s.fsm.state = .sRdHi ∧ t.fsm.state = .sIdle))

/-! ### Who writes which register -/

/-- R22: the latches are written together at acceptance, else only by reset. -/
def Obligations.LatchesChangeOnlyAtAcceptance : Prop :=
  ∀ s t, step s = .next t → (nextEdge s).rst = false →
    (t.fsm.addrR = s.fsm.addrR ∧ t.fsm.cmdR = s.fsm.cmdR ∧ t.fsm.len2R = s.fsm.len2R) ∨
    (s.fsm.state = .sIdle ∧ t.fsm.state = .sBegin ∧ ∃ q, requestPins (nextEdge s) s = some q ∧ t.fsm.len2R = q.1 ∧ t.fsm.addrR = q.2.1 ∧ t.fsm.cmdR = q.2.2)

/-- R27: `ERR` changes only by reset, by acceptance (to 0), or by the step out of `S_REQ` (to `k != n`); and with `ERR` turned over
before any step, every other register, the transport and the word the channel layer delivers come out the same (the layer passes
`ERR` itself on, R198). -/
def Obligations.ErrIsWrittenOnceAndNeverRead : Prop :=
  (∀ s t, step s = .next t → t.fsm.err ≠ s.fsm.err →
    (nextEdge s).rst = true ∨ (s.fsm.state = .sIdle ∧ t.fsm.state = .sBegin ∧ t.fsm.err = false) ∨
    (s.fsm.state = .sReq ∧ ∃ sent, (nextEdge s).done = some sent ∧ t.fsm.err = decide (sent.length ≠ expectedLen s.fsm.len2R))) ∧
  (∀ s t x, step s = .next t → ∃ u, step { s with fsm := { s.fsm with err := x } } = .next u ∧
    { u.fsm with err := false } = { t.fsm with err := false } ∧ u.transport = t.transport ∧
    u.caller.result.map (·.q) = t.caller.result.map (·.q))

/-- R26: `DONE` is cleared by reset and acceptance and set by the step that completes a request, and by nothing else. -/
def Obligations.DoneIsSetByTheCompletingStep : Prop :=
  ∀ s t, step s = .next t →
    (s.fsm.done = false → t.fsm.done = true → (nextEdge s).rst = false ∧ t.fsm.state = .sIdle ∧
      ((s.fsm.state = .sRdLo ∧ s.fsm.len2R = false) ∨ s.fsm.state = .sRdHi)) ∧
    (s.fsm.done = true → t.fsm.done = false → (nextEdge s).rst = true ∨ (s.fsm.state = .sIdle ∧ t.fsm.state = .sBegin))

/-- R23, R245: while `DONE = 1` in `S_IDLE`, every register holds until the next request is accepted or a reset. A result that the
channel layer has delivered holds, over any step, until the next pseudo-operation is accepted (that a reset leaves it is the model's
choice, log entry 10). -/
def Obligations.ResultHoldsUntilNextAcceptance : Prop :=
  (∀ s t, step s = .next t → (nextEdge s).rst = false → s.fsm.state = .sIdle → s.fsm.done = true →
    t.fsm = s.fsm ∨ (t.fsm.state = .sBegin ∧ t.fsm.done = false)) ∧
  (∀ s t, step s = .next t → s.caller.chan = .idle →
    (t.caller.chan = .idle ∧ t.caller.result = s.caller.result) ∨
    (s.fsm.state = .sIdle ∧ t.fsm.state = .sBegin ∧ t.caller.result = none ∧ ∃ ch, t.caller.chan = .word ch))

/-- R25: `BUSY` is the complement of `S_IDLE`; over any step, it rises only by acceptance and falls only by completion or reset. -/
def Obligations.BusyFromAcceptanceToCompletion : Prop :=
  ∀ s t, step s = .next t →
    (s.fsm.busy = false → t.fsm.busy = true → t.fsm.state = .sBegin ∧ (requestPins (nextEdge s) s).isSome = true) ∧
    (s.fsm.busy = true → t.fsm.busy = false → (nextEdge s).rst = true ∨ t.fsm.done = true)

/-! ### Invariants -/

/-- Every step keeps the invariant of the registers, the channel layer and the transport. -/
def Obligations.EveryStepKeepsTheInvariant : Prop :=
  ∀ s t, MachineInv s → step s = .next t → MachineInv t

/-- The invariant holds after reset (the transport and the caller at the values of log entry 5). -/
def Obligations.InvariantHoldsAtReset : Prop := MachineInv State.reset

/-! ### Whole runs of a request -/

/-- R114: `REQ1` accepted, then one completion per command: the registers at its end, and the commands issued. -/
def Obligations.OneByteRequestCompletes : Prop :=
  ∀ s a c sent rest, portFree s = true → s.inputs = requestCompletions false sent ++ rest →
    ∃ t u, exec (.req1 a c) s = .next t ∧ Reaches 5 t u ∧
      u.fsm = ⟨.sIdle, a, c, false, 0#8 ++ receivedByte sent s.transport.draws 0, true, decide (sent.length ≠ 1)⟩ ∧
      u.transport.log = [.tBegin a, .tWrite c, .tEnd false, .tReq a 1 true, .tRead] ∧ u.inputs = rest ∧ u.caller = s.caller

/-- R115: `REQ2`, low byte first. -/
def Obligations.TwoByteRequestCompletes : Prop :=
  ∀ s a c sent rest, portFree s = true → s.inputs = requestCompletions true sent ++ rest →
    ∃ t u, exec (.req2 a c) s = .next t ∧ Reaches 6 t u ∧
      u.fsm = ⟨.sIdle, a, c, true, receivedByte sent s.transport.draws 1 ++ receivedByte sent s.transport.draws 0, true,
        decide (sent.length ≠ 2)⟩ ∧
      u.transport.log = [.tBegin a, .tWrite c, .tEnd false, .tReq a 2 true, .tRead, .tRead] ∧ u.inputs = rest ∧ u.caller = s.caller

/-- R113 in any schedule: between the completions any number of edges may pass and the caller may present anything the decoder
accepts; the run ends with the last completion, with exactly the commands of R113, whatever the transport answers. -/
def Obligations.RequestRunsInAnySchedule : Prop :=
  ∀ s (len2 : Bool) a c es rest, portFree s = true → s.inputs = es ++ rest → Schedule (4 + expectedLen len2) es →
    ∃ t u, exec (if len2 then .req2 a c else .req1 a c) s = .next t ∧ Reaches es.length t u ∧
      u.fsm = ⟨.sIdle, a, c, len2, resultWord len2 ((answers es).getD 3 []) s.transport.draws, true,
        decide (((answers es).getD 3 []).length ≠ expectedLen len2)⟩ ∧
      u.transport.log = requestCommands len2 a c ∧ u.inputs = rest

/-- R124: the bytes of a completed `T_REQ` go to the receive buffer, and the `i`-th `T_READ` that follows gives the `i`-th of them, or
beyond the last a draw of its own. -/
def Obligations.ReadsReturnTheBytesInOrder : Prop :=
  (∀ s sent, CompletesNow s sent → s.fsm.state = .sReq → ∃ t, step s = .next t ∧ t.transport.rx = sent ∧ t.transport.draws = s.transport.draws) ∧
  (∀ s sent, CompletesNow s sent → s.fsm.state = .sRdLo ∨ s.fsm.state = .sRdHi →
    ∃ t, step s = .next t ∧ t.transport.rx = (takeByte s.transport).rx ∧ t.transport.draws = (takeByte s.transport).draws) ∧
  (∀ (tr : Transport) (i : Nat), readAnswer (takeByte^[i] tr) = receivedByte tr.rx tr.draws i)

/-- R56: every word is admitted as an answer, whatever the device, the command and the state: some behaviour of the transport
delivers it without error. -/
def Obligations.EveryWordCanBeDelivered : Prop :=
  ∀ s a c (w : Word), portFree s = true →
    ∃ es t u, exec (.req2 a c) { s with inputs := es } = .next t ∧ Reaches 6 t u ∧
      u.fsm.done = true ∧ u.fsm.err = false ∧ u.fsm.rawWord = w

/-- R20, R248: a request's run does not depend on what an earlier request left: from two states that differ only in the registers,
the same request ends, in any environment, in the same state. -/
def Obligations.RequestIgnoresEarlierResults : Prop :=
  ∀ s₁ s₂ (len2 : Bool) a c t₁ t₂, portFree s₁ = true → portFree s₂ = true → s₁.transport = s₂.transport → s₁.caller = s₂.caller →
    s₁.inputs = s₂.inputs → exec (if len2 then .req2 a c else .req1 a c) s₁ = .next t₁ →
    exec (if len2 then .req2 a c else .req1 a c) s₂ = .next t₂ →
    ∀ k u₁, Reaches k t₁ u₁ → ∃ u₂, Reaches k t₂ u₂ ∧ u₁.transport = u₂.transport ∧ u₁.caller = u₂.caller ∧
      ({ u₁.fsm with rawWord := 0 } = { u₂.fsm with rawWord := 0 }) ∧ (u₁.fsm.done = true → u₁ = u₂)

/-- R221: while the transport completes nothing and no one resets the block, the FSM stays as it is for ever, `BUSY = 1`, `DONE = 0`. -/
def Obligations.WithoutCompletionTheRequestIsStuck : Prop :=
  ∀ s, s.fsm.busy = true → FsmInv s.fsm →
    (∀ e ∈ s.inputs, e.rst = false ∧ e.outside = .quiet ∧ opDecodes e = true ∧ e.done = none) →
    ∀ k, ∃ t, Reaches k s t ∧ t.fsm = s.fsm ∧ t.fsm.busy = true ∧ t.fsm.done = false

/-- R128: under `TRANSPORT_LIVE`, and with no reset, no one else on the transport and nothing the decoder rejects, every accepted
request completes. -/
def Obligations.LiveTransportCompletesEveryRequest : Prop :=
  ∀ s, s.fsm.busy = true → TransportLive s → noReset s = true → soleOwner s = true → opsDecode s = true →
    ∃ k t, Reaches k s t ∧ t.fsm.state = .sIdle ∧ t.fsm.done = true

/-- R255: under `COMPLETE_READS`, from a state with `ERR = 0`, `ERR` stays 0 along every run. -/
def Obligations.CompleteReadsLeaveNoError : Prop :=
  ∀ s k t, s.fsm.err = false → CompleteReads s → Reaches k s t → t.fsm.err = false

/-- R127: `T_AVAIL` is in the transport's shape with code 4, is never outstanding, and `t_avail` is not read. -/
def Obligations.AvailIsNeverIssued : Prop :=
  TCmd.code .tAvail = 4 ∧ (∀ r : Fsm, outstanding r ≠ some .tAvail ∧ (portOut r).tOp ≠ some 4) ∧
  (∀ (p : PortIn) (r : Fsm) v, clockEdge { p with tAvail := v } r = clockEdge p r)

/-! ### The decoders -/

/-- R150: `DEC11` of every word in every state, in the source's own masks; no register is written. -/
def Obligations.LinearElevenDecodes : Prop :=
  ∀ (w : Word) s, ∃ t, exec (.dec11 w) s = .next t ∧ t.fsm = s.fsm ∧
    ∀ sh, sh = (if (w >>> 11).getLsbD 4 then ((~~~(w >>> 11) + 1) &&& 0x1F).toNat else (w >>> 11).toNat) →
      t.l11Q.toNat = (w &&& 0x7FF).toNat * 2 ^ (31 - sh) ∧ fixedValue t.l11Q = ((w &&& 0x7FF).toNat : ℚ) / 2 ^ sh

/-- R170: `DEC16` of every word and exponent in every state; no register is written. -/
def Obligations.LinearSixteenDecodes : Prop :=
  ∀ (w : Word) (x : RawExp) s, ∃ t, exec (.dec16 w x) s = .next t ∧ t.fsm = s.fsm ∧
    ∀ sh, sh = ((~~~x + 1) &&& 0x1F).toNat →
      t.l16Q.toNat = w.toNat * 2 ^ (31 - sh) ∧ fixedValue t.l16Q = (w.toNat : ℚ) / 2 ^ sh

/-- R29: a decode changes nothing but the decoder's own input: no register, nothing of the transport, the channel layer or the other
decoder. -/
def Obligations.DecodeFrame : Prop :=
  ∀ s t, (∀ w, exec (.dec11 w) s = .next t → t.fsm = s.fsm ∧ t.transport = s.transport ∧ t.inputs = s.inputs ∧
      t.caller = { s.caller with l11Word := w } ∧ t.l16Q = s.l16Q) ∧
    (∀ w x, exec (.dec16 w x) s = .next t → t.fsm = s.fsm ∧ t.transport = s.transport ∧ t.inputs = s.inputs ∧
      t.caller = { s.caller with l16Word := w, l16Exp := x } ∧ t.l11Q = s.l11Q)

/-- R152: the shift count, its other form and its range. -/
def Obligations.LinearElevenShiftCount : Prop :=
  ∀ e : RawExp, shift11 e = (if e.getLsbD 4 then 32 - e.toNat else e.toNat) ∧ shift11 e = e.toInt.natAbs ∧ shift11 e ≤ 16 ∧
    (shift11 e = 16 ↔ e = 0b10000)

/-- R172. -/
def Obligations.LinearSixteenShiftCount : Prop :=
  (∀ x : RawExp, shift16 x = (32 - x.toNat) % 32 ∧ (shift16 x : Int) = (-x.toInt) % 32 ∧ shift16 x ≤ 31) ∧
  (∀ n, n ≤ 31 → ∃ x : RawExp, shift16 x = n)

/-- R88: the negation, and that it depends only on the low 5 bits, at whatever width the raw value was held. -/
def Obligations.NegationNeedsOnlyFiveBits : Prop :=
  (∀ raw : RawExp, (neg5 raw).toNat = (32 - raw.toNat) % 32) ∧ neg5 0 = 0 ∧ neg5 16 = 16 ∧
  (∀ (n : Nat) (raw : BitVec n), 5 ≤ n → neg5 (raw.setWidth 5) = (~~~raw + 1).setWidth 5)

/-- R87, R176: the two recoveries agree exactly for raw values 0 and 16 to 31. -/
def Obligations.RecoveriesAgreeExactlyOffPositive : Prop :=
  ∀ x : RawExp, shift11 x = x.toInt.natAbs ∧ (shift16 x : Int) = (-x.toInt) % 32 ∧
    (shift11 x = shift16 x ↔ x.toNat = 0 ∨ 16 ≤ x.toNat)

/-- R154: the value is the source's repeated division, never negative, zero exactly for a zero mantissa, between 1/2^16 and 2047
otherwise. -/
def Obligations.LinearElevenValue : Prop :=
  ∀ w : Word, dec11Value w = halvings (shift11 (l11RawExp w)) ((l11Mantissa w).toNat : ℚ) ∧
    dec11Value w = ((l11Mantissa w).toNat : ℚ) * 2 ^ (-(shift11 (l11RawExp w) : ℤ)) ∧ 0 ≤ dec11Value w ∧
    (dec11Value w = 0 ↔ l11Mantissa w = 0) ∧ (l11Mantissa w ≠ 0 → (1 : ℚ) / 2 ^ 16 ≤ dec11Value w) ∧ dec11Value w ≤ 2047 ∧
    dec11Value 0x8001 = 1 / 2 ^ 16 ∧ dec11Value 0x07FF = 2047

/-- R155: the port shows exactly that value; the two forms of the left shift; the top five bits and the low `L` bits are zero. -/
def Obligations.LinearElevenPortIsExact : Prop :=
  ∀ w : Word, fixedValue (dec11 w) = dec11Value w ∧ dec11 w = ((l11Mantissa w).setWidth 47) <<< (31 - shift11 (l11RawExp w)) ∧
    15 ≤ 31 - shift11 (l11RawExp w) ∧ ((l11RawExp w).getLsbD 4 = false → 31 - shift11 (l11RawExp w) = (~~~(l11RawExp w)).toNat) ∧
    ((l11RawExp w).getLsbD 4 = true → 31 - shift11 (l11RawExp w) = (l11RawExp w - 1).toNat) ∧
    (dec11 w).extractLsb' 42 5 = 0 ∧ (∀ i, i < 31 - shift11 (l11RawExp w) → (dec11 w).getLsbD i = false)

/-- R153, R157: the decoder always divides and reads the mantissa as unsigned, for a positive exponent and for `M[10] = 1` too. -/
def Obligations.LinearElevenAlwaysDividesUnsigned : Prop :=
  ∀ (e : RawExp) (m : BitVec 11),
    (e.toInt ≤ 0 → dec11Value (l11Pack e m) = (m.toNat : ℚ) * 2 ^ e.toInt) ∧
    (0 < e.toInt → dec11Value (l11Pack e m) = (m.toNat : ℚ) / 2 ^ e.toNat) ∧
    (m.getLsbD 10 = true → ∃ u, 1024 ≤ u ∧ u ≤ 2047 ∧ dec11Value (l11Pack e m) = (u : ℚ) / 2 ^ shift11 e ∧ u = m.toNat)

/-- R160: the round trip in the corrected range, and what the same construction gives beyond it. -/
def Obligations.LinearElevenRoundTrip : Prop :=
  ∀ m e, m < 2048 → e < 32 →
    (e ≤ 16 → dec11Value (BitVec.ofNat 16 (((32 - e) % 32) * 2048 + m)) = (m : ℚ) / 2 ^ e) ∧
    (17 ≤ e → dec11Value (BitVec.ofNat 16 (((32 - e) % 32) * 2048 + m)) = (m : ℚ) / 2 ^ (32 - e))

/-- R173, R175: the Linear16 value by the sign of its exponent, its repeated division and its bounds. -/
def Obligations.LinearSixteenValue : Prop :=
  ∀ (w : Word) (x : RawExp), dec16Value w x = halvings (shift16 x) (w.toNat : ℚ) ∧
    (x.toInt ≤ 0 → dec16Value w x = (w.toNat : ℚ) * 2 ^ x.toInt) ∧
    (0 < x.toInt → dec16Value w x = (w.toNat : ℚ) / 2 ^ (32 - x.toNat)) ∧
    0 ≤ dec16Value w x ∧ (dec16Value w x = 0 ↔ w = 0) ∧ (w ≠ 0 → (1 : ℚ) / 2 ^ 31 ≤ dec16Value w x) ∧ dec16Value w x ≤ 65535 ∧
    dec16Value 1 1 = 1 / 2 ^ 31 ∧ dec16Value 0xFFFF 0 = 65535

/-- R174. -/
def Obligations.LinearSixteenPortIsExact : Prop :=
  ∀ (w : Word) (x : RawExp), fixedValue (dec16 w x) = dec16Value w x ∧ dec16 w x = (w.setWidth 47) <<< (x - 1).toNat ∧
    31 - shift16 x = (x - 1).toNat ∧ (∀ i, i < (x - 1).toNat → (dec16 w x).getLsbD i = false)

/-- R180. -/
def Obligations.LinearSixteenRoundTrip : Prop :=
  ∀ (w : Word) e, e < 32 → dec16Value w (BitVec.ofNat 5 ((32 - e) % 32)) = (w.toNat : ℚ) / 2 ^ e

/-! ### The pseudo-operations -/

/-- R192, R194, R195, R196: `VIN`, `TEMP`, `IOUT`, `POUT`, each accepted and then run to its end in any schedule, with its own
command byte. -/
def Obligations.LinearElevenChannelsComplete : Prop :=
  ∀ s es rest sent, portFree s = true → s.inputs = es ++ rest → Schedule 6 es → sent = (answers es).getD 3 [] →
    ∀ p ∈ [(Instr.vin, 0x88#8), (Instr.temp, 0x8D#8), (Instr.iout, 0x8C#8), (Instr.pout, 0x96#8)],
      ∃ t u, exec p.1 s = .next t ∧ t.fsm = ⟨.sBegin, Config.devAddr, p.2, true, s.fsm.rawWord, false, false⟩ ∧ Reaches es.length t u ∧
        u.caller.result = some ⟨dec11 (resultWord true sent s.transport.draws), decide (sent.length ≠ 2)⟩ ∧
        u.caller.chan = .idle ∧ u.fsm.rawWord = resultWord true sent s.transport.draws ∧ u.fsm.done = true ∧
        u.transport.log = [.tBegin Config.devAddr, .tWrite p.2, .tEnd false, .tReq Config.devAddr 2 true, .tRead, .tRead] ∧ u.inputs = rest

/-- R193, R198: `VOUT` in any schedule: two transactions, the value first and the mode second, then the Linear16 decode; its error is
the OR. At the one edge `gap` between the two runs other agents may use the bus (R246); that the mode request is accepted at that edge
is the model's choice (log entry 8). -/
def Obligations.OutputVoltageCompletes : Prop :=
  ∀ s es₁ gap es₂ rest sent₁ sent₂, portFree s = true → s.inputs = es₁ ++ gap :: es₂ ++ rest →
    Schedule 6 es₁ → Schedule 5 es₂ → gap.rst = false → opDecodes gap = true →
    sent₁ = (answers es₁).getD 3 [] → sent₂ = (answers es₂).getD 3 [] →
    ∀ w m, w = resultWord true sent₁ s.transport.draws →
      m = receivedByte sent₂ (s.transport.draws + drawsTaken true sent₁) 0 →
      ∃ t u, exec .vout s = .next t ∧ t.fsm = ⟨.sBegin, Config.devAddr, 0x8B, true, s.fsm.rawWord, false, false⟩ ∧
        Reaches (es₁.length + (es₂.length + 1)) t u ∧
        u.caller.result = some ⟨dec16 w (m.extractLsb' 0 5), decide (sent₁.length ≠ 2) || decide (sent₂.length ≠ 1)⟩ ∧
        u.caller.chan = .idle ∧ u.fsm.rawWord = 0#8 ++ m ∧ u.fsm.done = true ∧
        u.transport.log = requestCommands true Config.devAddr 0x8B ++ requestCommands false Config.devAddr 0x20 ∧ u.inputs = rest

/-- R84, R94: only the low 5 bits of the mode byte reach the result. -/
def Obligations.ModeByteUpperBitsAreIgnored : Prop :=
  ∀ (r₁ r₂ : Fsm) (c : Caller) w e1 (b₁ b₂ : Byte), c.chan = .mode w e1 → r₁.rawWord = rawFirst b₁ → r₂.rawWord = rawFirst b₂ →
    r₁.err = r₂.err → b₁ &&& 0x1F = b₂ &&& 0x1F → takeWord r₁ c = takeWord r₂ c

/-- What a request or pseudo-operation leaves unchanged when `exec` gives a next state: `RAW_WORD`, the decoders' inputs, the
receive buffer, the draws, the readiness of the transport, the coming edges; a plain request also the channel layer. The block
has no memory (R50). -/
def Obligations.RequestFrame : Prop :=
  ∀ s t a c, ∀ i ∈ [Instr.req1 a c, .req2 a c, .vin, .vout, .temp, .iout, .pout], exec i s = .next t →
    t.fsm.rawWord = s.fsm.rawWord ∧ t.caller.l11Word = s.caller.l11Word ∧ t.caller.l16Word = s.caller.l16Word ∧
    t.caller.l16Exp = s.caller.l16Exp ∧ t.transport.rx = s.transport.rx ∧ t.transport.draws = s.transport.draws ∧
    t.transport.ready = s.transport.ready ∧ t.inputs = s.inputs ∧ (i = .req1 a c ∨ i = .req2 a c → t.caller = s.caller)

/-! ### Encodings and fetching -/

/-- For every operation, decoding its bundle gives it back, and it is well-formed. -/
def Obligations.DecodeOfEncode : Prop := ∀ i : Instr, i.wf = true ∧ decode (encode i) = .ok i

/-- For every bundle on the request and decoder ports, encoding what it decodes to gives it back; on the channel layer this holds
when the descriptor carries `DEV_ADDR`. -/
def Obligations.EncodeOfDecode : Prop :=
  ∀ b i, decode b = .ok i → (∀ d, b = .channel d → rqAddr d = Config.devAddr) → encode i = b

/-- R90: every 16-bit descriptor on the request port spells exactly one of `REQ1` and `REQ2`, bit 15 deciding, with its fields,
whatever its command; and a pseudo-operation's descriptor is a `REQ2` with that channel's command; 0x8088 is both a
`REQ2` and the request that `VIN` issues when the address is 0. -/
def Obligations.DescriptorsSpellExactlyOneRequest : Prop :=
  (∀ d : Word, (d.getLsbD 15 = false → decode (.rq d) = .ok (.req1 (d.extractLsb' 8 7) (d.extractLsb' 0 8))) ∧
    (d.getLsbD 15 = true → decode (.rq d) = .ok (.req2 (d.extractLsb' 8 7) (d.extractLsb' 0 8)))) ∧
  (∀ (d : Word) ch, decode (.channel d) = .ok (Channel.instr ch) → decode (.rq d) = .ok (.req2 (d.extractLsb' 8 7) ch.command)) ∧
  decode (.rq 0x8088) = .ok (.req2 0 0x88) ∧ (∀ a : DevAddr, a = 0 → rqDescriptor true a (Channel.command .vin) = 0x8088)

/-- Raw bits decode exactly when they are well-formed, and a software call exactly when it is (R93: every length other than 1 and 2 is
refused). -/
def Obligations.OnlyIllFormedIsRejected : Prop :=
  (∀ b : RawBundle, (∃ i, decodeRaw b = .ok i) ↔ b.wf = true) ∧
  (∀ q : RequestCall, (∃ i, decodeCall q = .ok i) ↔ q.wf = true) ∧
  (∀ q : RequestCall, q.deviceAddress < 128 → q.command < 256 → q.expectedLength ≠ 1 → q.expectedLength ≠ 2 →
    decodeCall q = .error (.length q.expectedLength))

/-- Words written out from the encodings (L2.1 and L3 of the test vectors) decode to the operations they stand for. -/
def Obligations.WrittenOutWordsDecode : Prop :=
  decode (.rq 0x1020) = .ok (.req1 0x10 0x20) ∧ decode (.rq 0xDA8B) = .ok (.req2 0x5A 0x8B) ∧ decode (.l11 0xF064) = .ok (.dec11 0xF064) ∧
  decode (.l16 0x1D03E8) = .ok (.dec16 0x03E8 0b11101) ∧ decode (.channel 0x9088) = .ok .vin ∧ decode (.channel 0x908B) = .ok .vout ∧
  decode (.channel 0x908D) = .ok .temp ∧ decode (.channel 0x908C) = .ok .iout ∧ decode (.channel 0x9096) = .ok .pout ∧
  decode (.channel 0x9089) = .error (.notAChannel 0x9089)

/-- A step runs the operations that the bundles at the coming edge decode to, each by `exec`, then what the edge does besides
(`closeEdge`; at a reset edge only the decoders' bundles, then `resetEdge`); with one bundle alone at the edge and no request pending,
the step IS the operation. -/
def Obligations.StepRunsTheDecodedOperation : Prop :=
  (∀ s, runBundles [] s = .next s) ∧
  (∀ b bs i s t, decode b = .ok i → i.wf = true → exec i s = .next t → runBundles (b :: bs) s = runBundles bs t) ∧
  (∀ s t, (nextEdge s).rst = false → interleaved (nextEdge s) s = false →
    runBundles (nextEdge s).bundles (outsideEffect (nextEdge s).outside (dropEdge s)) = .next t →
    step s = .next (closeEdge (nextEdge s) (dropEdge s) t)) ∧
  (∀ s t, (nextEdge s).rst = true → runBundles (nextEdge s).decodes (dropEdge s) = .next t →
    step s = .next (resetEdge (nextEdge s) t)) ∧
  (∀ s b i rest, s.inputs = presenting b :: rest → decode b = .ok i → i.wf = true →
    (s.fsm.busy = true ∨ s.caller.chan = .idle) → step s = exec i { s with inputs := rest }) ∧
  (∀ s nbits w i, decodeTableWord nbits w = some i → (s.fsm.busy = true ∨ s.caller.chan = .idle) →
    step (s.withFetchWord nbits w) = exec i s)

/-! ### Stops -/

/-- No operation ends in a fault or a refusal, in any state, with any operands (R11, R92, R214). -/
def Obligations.EveryOperationAnswersANextState : Prop := ∀ i s, ∃ t, exec i s = .next t

/-- A step stops in two cases only, both by name: another agent on the transport during a transaction (R244, U9; log entry 11), or a
descriptor on the channel layer that is none of the five channels (R199, U8). -/
def Obligations.StepStopsOnlyByName : Prop :=
  ∀ s, (∀ f, step s = .fault f ↔ (nextEdge s).rst = false ∧ s.fsm.busy = true ∧ (nextEdge s).outside ≠ .quiet) ∧
    (∀ r, step s = .refused r → ∃ d, (nextEdge s).request = some (.channel d) ∧ channelOf d = none ∧ r = .rejected (.notAChannel d))
end

