-- ==== Sys2Proof/Laws/Fields.lean ====
section
/-! SUPPORT. The fields of an `RQ` descriptor (R85) and of the other bundles, as numbers. -/

namespace Sys2Proof

/-- A descriptor as a number: `LEN2` at bit 15, `A` at bit 8, `C` at bit 0 (R85). -/
theorem rqDescriptor_toNat (len2 : Bool) (a : DevAddr) (c : Byte) :
    (rqDescriptor len2 a c).toNat = len2.toNat * 32768 + a.toNat * 256 + c.toNat := by
  show (BitVec.toNat (w := 1 + 7 + 8) (BitVec.ofBool len2 ++ a ++ c)) = _
  have ha := a.isLt
  have hc := c.isLt
  rw [BitVec.toNat_append, BitVec.toNat_append, BitVec.toNat_ofBool, ← Nat.shiftLeft_add_eq_or_of_lt hc,
    ← Nat.shiftLeft_add_eq_or_of_lt ha]
  simp [Nat.shiftLeft_eq]
  omega

/-- The length bit of a descriptor (R85). -/
@[simp] theorem rqLen2_descriptor (len2 : Bool) (a : DevAddr) (c : Byte) : rqLen2 (rqDescriptor len2 a c) = len2 := by
  have ha := a.isLt
  have hc := c.isLt
  rw [rqLen2, BitVec.getLsbD, rqDescriptor_toNat, Nat.testBit_eq_decide_div_mod_eq]
  cases len2 <;> simp <;> omega

/-- The address of a descriptor (R85). -/
@[simp] theorem rqAddr_descriptor (len2 : Bool) (a : DevAddr) (c : Byte) : rqAddr (rqDescriptor len2 a c) = a := by
  have ha := a.isLt
  have hc := c.isLt
  apply BitVec.eq_of_toNat_eq
  rw [rqAddr, BitVec.extractLsb'_toNat, rqDescriptor_toNat, Nat.shiftRight_eq_div_pow]
  cases len2 <;> simp <;> omega

/-- The command of a descriptor (R85). -/
@[simp] theorem rqCmd_descriptor (len2 : Bool) (a : DevAddr) (c : Byte) : rqCmd (rqDescriptor len2 a c) = c := by
  have ha := a.isLt
  have hc := c.isLt
  apply BitVec.eq_of_toNat_eq
  rw [rqCmd, BitVec.extractLsb'_toNat, rqDescriptor_toNat, Nat.shiftRight_eq_div_pow]
  cases len2 <;> simp <;> omega

/-- A descriptor is made of its fields (R85: the three fields partition the 16 bits). -/
theorem rqDescriptor_fields (d : Word) : rqDescriptor (rqLen2 d) (rqAddr d) (rqCmd d) = d := by
  have hd := d.isLt
  apply BitVec.eq_of_toNat_eq
  rw [rqDescriptor_toNat, rqLen2, rqAddr, rqCmd, BitVec.getLsbD, Nat.testBit_eq_decide_div_mod_eq,
    BitVec.extractLsb'_toNat, BitVec.extractLsb'_toNat, Nat.shiftRight_eq_div_pow, Nat.shiftRight_eq_div_pow]
  rcases Nat.mod_two_eq_zero_or_one (d.toNat / 2 ^ 15) with h | h <;> rw [h] <;> simp <;> omega

end Sys2Proof
end

