-- ==== Sys2Proof/Laws/State.lean ====
section
/-! SUPPORT. One lemma per field per update of the state: no later proof unfolds a record update. -/

namespace Sys2Proof.Machine

/-! ### Setters -/

@[simp] theorem setFsm_fsm (r : Fsm) (s : State) : (setFsm r s).fsm = r := rfl
@[simp] theorem setFsm_transport (r : Fsm) (s : State) : (setFsm r s).transport = s.transport := rfl
@[simp] theorem setFsm_caller (r : Fsm) (s : State) : (setFsm r s).caller = s.caller := rfl
@[simp] theorem setFsm_inputs (r : Fsm) (s : State) : (setFsm r s).inputs = s.inputs := rfl

@[simp] theorem setTransport_fsm (t : Transport) (s : State) : (setTransport t s).fsm = s.fsm := rfl
@[simp] theorem setTransport_transport (t : Transport) (s : State) : (setTransport t s).transport = t := rfl
@[simp] theorem setTransport_caller (t : Transport) (s : State) : (setTransport t s).caller = s.caller := rfl
@[simp] theorem setTransport_inputs (t : Transport) (s : State) : (setTransport t s).inputs = s.inputs := rfl

@[simp] theorem setCaller_fsm (c : Caller) (s : State) : (setCaller c s).fsm = s.fsm := rfl
@[simp] theorem setCaller_transport (c : Caller) (s : State) : (setCaller c s).transport = s.transport := rfl
@[simp] theorem setCaller_caller (c : Caller) (s : State) : (setCaller c s).caller = c := rfl
@[simp] theorem setCaller_inputs (c : Caller) (s : State) : (setCaller c s).inputs = s.inputs := rfl

@[simp] theorem setInputs_fsm (es : List Edge) (s : State) : (setInputs es s).fsm = s.fsm := rfl
@[simp] theorem setInputs_transport (es : List Edge) (s : State) : (setInputs es s).transport = s.transport := rfl
@[simp] theorem setInputs_caller (es : List Edge) (s : State) : (setInputs es s).caller = s.caller := rfl
@[simp] theorem setInputs_inputs (es : List Edge) (s : State) : (setInputs es s).inputs = es := rfl

/-! ### The decoders' inputs -/

@[simp] theorem driveL11_l11Word (w : Word) (c : Caller) : (driveL11 w c).l11Word = w := rfl
@[simp] theorem driveL11_l16Word (w : Word) (c : Caller) : (driveL11 w c).l16Word = c.l16Word := rfl
@[simp] theorem driveL11_l16Exp (w : Word) (c : Caller) : (driveL11 w c).l16Exp = c.l16Exp := rfl
@[simp] theorem driveL11_chan (w : Word) (c : Caller) : (driveL11 w c).chan = c.chan := rfl
@[simp] theorem driveL11_result (w : Word) (c : Caller) : (driveL11 w c).result = c.result := rfl
@[simp] theorem driveL16_l11Word (w : Word) (x : RawExp) (c : Caller) : (driveL16 w x c).l11Word = c.l11Word := rfl
@[simp] theorem driveL16_l16Word (w : Word) (x : RawExp) (c : Caller) : (driveL16 w x c).l16Word = w := rfl
@[simp] theorem driveL16_l16Exp (w : Word) (x : RawExp) (c : Caller) : (driveL16 w x c).l16Exp = x := rfl
@[simp] theorem driveL16_chan (w : Word) (x : RawExp) (c : Caller) : (driveL16 w x c).chan = c.chan := rfl
@[simp] theorem driveL16_result (w : Word) (x : RawExp) (c : Caller) : (driveL16 w x c).result = c.result := rfl

/-! ### The steps of the FSM -/

@[simp] theorem accept_state (len2 : Bool) (a : DevAddr) (c : Byte) (r : Fsm) : (accept len2 a c r).state = .sBegin := rfl
@[simp] theorem accept_addrR (len2 : Bool) (a : DevAddr) (c : Byte) (r : Fsm) : (accept len2 a c r).addrR = a := rfl
@[simp] theorem accept_cmdR (len2 : Bool) (a : DevAddr) (c : Byte) (r : Fsm) : (accept len2 a c r).cmdR = c := rfl
@[simp] theorem accept_len2R (len2 : Bool) (a : DevAddr) (c : Byte) (r : Fsm) : (accept len2 a c r).len2R = len2 := rfl
@[simp] theorem accept_rawWord (len2 : Bool) (a : DevAddr) (c : Byte) (r : Fsm) : (accept len2 a c r).rawWord = r.rawWord := rfl
@[simp] theorem accept_done (len2 : Bool) (a : DevAddr) (c : Byte) (r : Fsm) : (accept len2 a c r).done = false := rfl
@[simp] theorem accept_err (len2 : Bool) (a : DevAddr) (c : Byte) (r : Fsm) : (accept len2 a c r).err = false := rfl

@[simp] theorem raiseIncomplete_state (k n : Nat) (r : Fsm) : (raiseIncomplete k n r).state = r.state := rfl
@[simp] theorem raiseIncomplete_addrR (k n : Nat) (r : Fsm) : (raiseIncomplete k n r).addrR = r.addrR := rfl
@[simp] theorem raiseIncomplete_cmdR (k n : Nat) (r : Fsm) : (raiseIncomplete k n r).cmdR = r.cmdR := rfl
@[simp] theorem raiseIncomplete_len2R (k n : Nat) (r : Fsm) : (raiseIncomplete k n r).len2R = r.len2R := rfl
@[simp] theorem raiseIncomplete_rawWord (k n : Nat) (r : Fsm) : (raiseIncomplete k n r).rawWord = r.rawWord := rfl
@[simp] theorem raiseIncomplete_done (k n : Nat) (r : Fsm) : (raiseIncomplete k n r).done = r.done := rfl
@[simp] theorem raiseIncomplete_err (k n : Nat) (r : Fsm) : (raiseIncomplete k n r).err = incomplete k n := rfl

@[simp] theorem stepBegin_state (r : Fsm) : (stepBegin r).state = .sWrite := rfl
@[simp] theorem stepBegin_addrR (r : Fsm) : (stepBegin r).addrR = r.addrR := rfl
@[simp] theorem stepBegin_cmdR (r : Fsm) : (stepBegin r).cmdR = r.cmdR := rfl
@[simp] theorem stepBegin_len2R (r : Fsm) : (stepBegin r).len2R = r.len2R := rfl
@[simp] theorem stepBegin_rawWord (r : Fsm) : (stepBegin r).rawWord = r.rawWord := rfl
@[simp] theorem stepBegin_done (r : Fsm) : (stepBegin r).done = r.done := rfl
@[simp] theorem stepBegin_err (r : Fsm) : (stepBegin r).err = r.err := rfl

@[simp] theorem stepWrite_state (r : Fsm) : (stepWrite r).state = .sEnd := rfl
@[simp] theorem stepWrite_addrR (r : Fsm) : (stepWrite r).addrR = r.addrR := rfl
@[simp] theorem stepWrite_cmdR (r : Fsm) : (stepWrite r).cmdR = r.cmdR := rfl
@[simp] theorem stepWrite_len2R (r : Fsm) : (stepWrite r).len2R = r.len2R := rfl
@[simp] theorem stepWrite_rawWord (r : Fsm) : (stepWrite r).rawWord = r.rawWord := rfl
@[simp] theorem stepWrite_done (r : Fsm) : (stepWrite r).done = r.done := rfl
@[simp] theorem stepWrite_err (r : Fsm) : (stepWrite r).err = r.err := rfl

@[simp] theorem stepEnd_state (r : Fsm) : (stepEnd r).state = .sReq := rfl
@[simp] theorem stepEnd_addrR (r : Fsm) : (stepEnd r).addrR = r.addrR := rfl
@[simp] theorem stepEnd_cmdR (r : Fsm) : (stepEnd r).cmdR = r.cmdR := rfl
@[simp] theorem stepEnd_len2R (r : Fsm) : (stepEnd r).len2R = r.len2R := rfl
@[simp] theorem stepEnd_rawWord (r : Fsm) : (stepEnd r).rawWord = r.rawWord := rfl
@[simp] theorem stepEnd_done (r : Fsm) : (stepEnd r).done = r.done := rfl
@[simp] theorem stepEnd_err (r : Fsm) : (stepEnd r).err = r.err := rfl

@[simp] theorem stepReq_state (k : Nat) (r : Fsm) : (stepReq k r).state = .sRdLo := rfl
@[simp] theorem stepReq_addrR (k : Nat) (r : Fsm) : (stepReq k r).addrR = r.addrR := rfl
@[simp] theorem stepReq_cmdR (k : Nat) (r : Fsm) : (stepReq k r).cmdR = r.cmdR := rfl
@[simp] theorem stepReq_len2R (k : Nat) (r : Fsm) : (stepReq k r).len2R = r.len2R := rfl
@[simp] theorem stepReq_rawWord (k : Nat) (r : Fsm) : (stepReq k r).rawWord = r.rawWord := rfl
@[simp] theorem stepReq_done (k : Nat) (r : Fsm) : (stepReq k r).done = r.done := rfl
@[simp] theorem stepReq_err (k : Nat) (r : Fsm) : (stepReq k r).err = incomplete k (expectedLen r.len2R) := rfl

@[simp] theorem stepRdHi_state (b : Byte) (r : Fsm) : (stepRdHi b r).state = .sIdle := rfl
@[simp] theorem stepRdHi_addrR (b : Byte) (r : Fsm) : (stepRdHi b r).addrR = r.addrR := rfl
@[simp] theorem stepRdHi_cmdR (b : Byte) (r : Fsm) : (stepRdHi b r).cmdR = r.cmdR := rfl
@[simp] theorem stepRdHi_len2R (b : Byte) (r : Fsm) : (stepRdHi b r).len2R = r.len2R := rfl
@[simp] theorem stepRdHi_rawWord (b : Byte) (r : Fsm) : (stepRdHi b r).rawWord = rawSecond b r.rawWord := rfl
@[simp] theorem stepRdHi_done (b : Byte) (r : Fsm) : (stepRdHi b r).done = true := rfl
@[simp] theorem stepRdHi_err (b : Byte) (r : Fsm) : (stepRdHi b r).err = r.err := rfl

@[simp] theorem finishRequest_state (r : Fsm) : (finishRequest r).state = .sIdle := rfl
@[simp] theorem finishRequest_addrR (r : Fsm) : (finishRequest r).addrR = r.addrR := rfl
@[simp] theorem finishRequest_cmdR (r : Fsm) : (finishRequest r).cmdR = r.cmdR := rfl
@[simp] theorem finishRequest_len2R (r : Fsm) : (finishRequest r).len2R = r.len2R := rfl
@[simp] theorem finishRequest_rawWord (r : Fsm) : (finishRequest r).rawWord = r.rawWord := rfl
@[simp] theorem finishRequest_done (r : Fsm) : (finishRequest r).done = true := rfl
@[simp] theorem finishRequest_err (r : Fsm) : (finishRequest r).err = r.err := rfl

theorem stepRdLo_one (b : Byte) (r : Fsm) (h : r.len2R = false) :
    stepRdLo b r = { r with rawWord := rawFirst b, done := true, state := .sIdle } := by
  simp [stepRdLo, h, finishRequest]

theorem stepRdLo_two (b : Byte) (r : Fsm) (h : r.len2R = true) :
    stepRdLo b r = { r with rawWord := rawFirst b, state := .sRdHi } := by
  simp [stepRdLo, h]

/-! ### The transport -/

@[simp] theorem openBus_rx (t : Transport) : (openBus t).rx = t.rx := rfl
@[simp] theorem openBus_bus (t : Transport) : (openBus t).bus = .unstated := rfl
@[simp] theorem openBus_ready (t : Transport) : (openBus t).ready = t.ready := rfl
@[simp] theorem openBus_draws (t : Transport) : (openBus t).draws = t.draws := rfl
@[simp] theorem openBus_log (t : Transport) : (openBus t).log = t.log := rfl

/-! ### Delivery of a result -/

@[simp] theorem deliver11_chan (w : Word) (e : Bool) (c : Caller) : (deliver11 w e c).chan = .idle := rfl
@[simp] theorem deliver11_result (w : Word) (e : Bool) (c : Caller) :
    (deliver11 w e c).result = some ⟨dec11 w, e⟩ := rfl
@[simp] theorem deliver16_chan (w m : Word) (e1 e2 : Bool) (c : Caller) :
    (deliver16 w e1 m e2 c).chan = .idle := rfl
@[simp] theorem deliver16_result (w m : Word) (e1 e2 : Bool) (c : Caller) :
    (deliver16 w e1 m e2 c).result = some ⟨dec16 w (modeRawExp m), e1 || e2⟩ := rfl

end Sys2Proof.Machine
end

