-- ==== Sys2Proof/Laws/Ops.lean ====
section
/-! SUPPORT. What each shared operation can do, said once: the equations of the named operations case by case,
and the inversion of one step. Proofs cite these and do not unfold the operations. -/

namespace Sys2Proof.Machine

/-! ### Status -/

theorem busy_iff (r : Fsm) : r.busy = true ↔ r.state ≠ .sIdle := by simp [Fsm.busy]

theorem not_busy_iff (r : Fsm) : r.busy = false ↔ r.state = .sIdle := by simp [Fsm.busy]

@[simp] theorem accept_busy (len2 : Bool) (a : DevAddr) (c : Byte) (r : Fsm) : (accept len2 a c r).busy = true := rfl

@[simp] theorem reset_busy : Fsm.reset.busy = false := rfl

theorem portFree_iff (s : State) : portFree s = true ↔ s.fsm.state = .sIdle ∧ s.caller.chan = .idle := by
  simp [portFree, Fsm.reqReady, Fsm.busy]

/-! ### The rows of R130 -/

theorem advance_idle {r : Fsm} (k : Nat) (b : Byte) (h : r.state = .sIdle) : advance k b r = r := by
  simp [advance, h]

theorem advance_begin {r : Fsm} (k : Nat) (b : Byte) (h : r.state = .sBegin) : advance k b r = stepBegin r := by
  simp [advance, h]

theorem advance_write {r : Fsm} (k : Nat) (b : Byte) (h : r.state = .sWrite) : advance k b r = stepWrite r := by
  simp [advance, h]

theorem advance_end {r : Fsm} (k : Nat) (b : Byte) (h : r.state = .sEnd) : advance k b r = stepEnd r := by
  simp [advance, h]

theorem advance_req {r : Fsm} (k : Nat) (b : Byte) (h : r.state = .sReq) : advance k b r = stepReq k r := by
  simp [advance, h]

theorem advance_rdLo {r : Fsm} (k : Nat) (b : Byte) (h : r.state = .sRdLo) : advance k b r = stepRdLo b r := by
  simp [advance, h]

theorem advance_rdHi {r : Fsm} (k : Nat) (b : Byte) (h : r.state = .sRdHi) : advance k b r = stepRdHi b r := by
  simp [advance, h]

/-- A completion never touches the latches (R22). -/
theorem advance_latches (k : Nat) (b : Byte) (r : Fsm) :
    (advance k b r).addrR = r.addrR ∧ (advance k b r).cmdR = r.cmdR ∧ (advance k b r).len2R = r.len2R := by
  cases h : r.state <;> simp [advance, h]
  cases hl : r.len2R <;> simp [stepRdLo, hl]

/-! ### Presenting a request -/

theorem presentRequest_free {s : State} (len2 : Bool) (a : DevAddr) (c : Byte) (h : portFree s = true) :
    presentRequest len2 a c s = acceptRequest len2 a c (clearLog s) := by simp [presentRequest, h]

theorem presentRequest_taken {s : State} (len2 : Bool) (a : DevAddr) (c : Byte) (h : portFree s = false) :
    presentRequest len2 a c s = s := by simp [presentRequest, h]

theorem startChannel_free {s : State} (ch : Channel) (h : portFree s = true) :
    startChannel ch s = setCaller { s.caller with chan := .word ch, result := none }
      (acceptRequest true Config.devAddr ch.command (clearLog s)) := by simp [startChannel, h]

theorem startChannel_taken {s : State} (ch : Channel) (h : portFree s = false) : startChannel ch s = s := by
  simp [startChannel, h]

@[simp] theorem clearLog_fsm (s : State) : (clearLog s).fsm = s.fsm := rfl
@[simp] theorem clearLog_caller (s : State) : (clearLog s).caller = s.caller := rfl
@[simp] theorem clearLog_inputs (s : State) : (clearLog s).inputs = s.inputs := rfl
@[simp] theorem clearLog_log (s : State) : (clearLog s).transport.log = [] := rfl
@[simp] theorem clearLog_rx (s : State) : (clearLog s).transport.rx = s.transport.rx := rfl
@[simp] theorem clearLog_draws (s : State) : (clearLog s).transport.draws = s.transport.draws := rfl
@[simp] theorem clearLog_ready (s : State) : (clearLog s).transport.ready = s.transport.ready := rfl

@[simp] theorem acceptRequest_fsm (len2 : Bool) (a : DevAddr) (c : Byte) (s : State) :
    (acceptRequest len2 a c s).fsm = accept len2 a c s.fsm := rfl
@[simp] theorem acceptRequest_transport (len2 : Bool) (a : DevAddr) (c : Byte) (s : State) :
    (acceptRequest len2 a c s).transport = openBus s.transport := rfl
@[simp] theorem acceptRequest_caller (len2 : Bool) (a : DevAddr) (c : Byte) (s : State) :
    (acceptRequest len2 a c s).caller = s.caller := rfl
@[simp] theorem acceptRequest_inputs (len2 : Bool) (a : DevAddr) (c : Byte) (s : State) :
    (acceptRequest len2 a c s).inputs = s.inputs := rfl

/-- The pending mode request is accepted when the FSM is idle (R193, R197). -/
theorem presentMode_pending {s : State} {w : Word} {e1 : Bool} (hc : s.caller.chan = .modePending w e1)
    (hi : s.fsm.state = .sIdle) :
    presentMode s = setCaller { s.caller with chan := .mode w e1 }
      (acceptRequest false Config.devAddr modeCommand s) := by
  simp [presentMode, hc, Fsm.reqReady, Fsm.busy, hi]

theorem presentMode_other {s : State} (h : ∀ w e1, s.caller.chan ≠ .modePending w e1) : presentMode s = s := by
  cases hc : s.caller.chan <;> simp [presentMode, hc]
  exact absurd hc (h _ _)

/-! ### Completion of a command -/

@[simp] theorem completeCommand_fsm (sent : List Byte) (s : State) :
    (completeCommand sent s).fsm = advance sent.length (readAnswer s.transport) s.fsm := rfl

@[simp] theorem completeCommand_transport (sent : List Byte) (s : State) :
    (completeCommand sent s).transport = transportDone (outstanding s.fsm) sent s.transport := rfl

@[simp] theorem completeCommand_inputs (sent : List Byte) (s : State) :
    (completeCommand sent s).inputs = s.inputs := rfl

theorem completeCommand_caller (sent : List Byte) (s : State) :
    (completeCommand sent s).caller =
      if s.fsm.busy && !(advance sent.length (readAnswer s.transport) s.fsm).busy
      then takeWord (advance sent.length (readAnswer s.transport) s.fsm) s.caller else s.caller := rfl

theorem readAnswer_cons {t : Transport} {b : Byte} {bs : List Byte} (h : t.rx = b :: bs) :
    readAnswer t = b ∧ takeByte t = { t with rx := bs } := by simp [readAnswer, takeByte, h]

theorem readAnswer_nil {t : Transport} (h : t.rx = []) :
    readAnswer t = Config.draw t.draws ∧ takeByte t = { t with draws := t.draws + 1 } := by
  simp [readAnswer, takeByte, h]

/-! ### The outside and reset -/

@[simp] theorem loseHold_log (t : Transport) : (loseHold t).log = t.log := by
  unfold loseHold
  split <;> rfl
@[simp] theorem loseHold_rx (t : Transport) : (loseHold t).rx = t.rx := by
  unfold loseHold
  split <;> rfl
@[simp] theorem loseHold_draws (t : Transport) : (loseHold t).draws = t.draws := by
  unfold loseHold
  split <;> rfl
@[simp] theorem loseHold_ready (t : Transport) : (loseHold t).ready = t.ready := by
  unfold loseHold
  split <;> rfl
theorem loseHold_bus (t : Transport) (h : t.bus ≠ .held) : loseHold t = t := by simp [loseHold, h]

@[simp] theorem outsideEffect_fsm (o : Outside) (s : State) : (outsideEffect o s).fsm = s.fsm := by
  cases o <;> rfl
@[simp] theorem outsideEffect_caller (o : Outside) (s : State) : (outsideEffect o s).caller = s.caller := by
  cases o <;> rfl
@[simp] theorem outsideEffect_inputs (o : Outside) (s : State) : (outsideEffect o s).inputs = s.inputs := by
  cases o <;> rfl
@[simp] theorem outsideEffect_quiet (s : State) : outsideEffect .quiet s = s := rfl
@[simp] theorem outsideEffect_log (o : Outside) (s : State) :
    (outsideEffect o s).transport.log = s.transport.log := by
  cases o
  · rfl
  · simp [outsideEffect]
  · rfl

@[simp] theorem lateCompletion_fsm (e : Edge) (s : State) : (lateCompletion e s).fsm = s.fsm := by
  unfold lateCompletion
  split <;> rfl
@[simp] theorem lateCompletion_caller (e : Edge) (s : State) : (lateCompletion e s).caller = s.caller := by
  unfold lateCompletion
  split <;> rfl
@[simp] theorem lateCompletion_inputs (e : Edge) (s : State) : (lateCompletion e s).inputs = s.inputs := by
  unfold lateCompletion
  split <;> rfl

@[simp] theorem lateCompletion_log (e : Edge) (s : State) :
    (lateCompletion e s).transport.log = s.transport.log := by
  unfold lateCompletion
  split
  · simp
  · rfl

/-- A late completion leaves a bus that is not held as it is. -/
theorem lateCompletion_bus (e : Edge) (s : State) (h : s.transport.bus ≠ .held) :
    (lateCompletion e s).transport.bus = s.transport.bus := by
  unfold lateCompletion
  split
  · simp [loseHold_bus _ h]
  · rfl

@[simp] theorem completeUnderReset_caller (e : Edge) (s : State) : (completeUnderReset e s).caller = s.caller := by
  unfold completeUnderReset
  split <;> simp
@[simp] theorem completeUnderReset_fsm (e : Edge) (s : State) : (completeUnderReset e s).fsm = s.fsm := by
  unfold completeUnderReset
  split <;> simp
@[simp] theorem completeUnderReset_inputs (e : Edge) (s : State) : (completeUnderReset e s).inputs = s.inputs := by
  unfold completeUnderReset
  split <;> simp

theorem completeUnderReset_none {e : Edge} (s : State) (h : e.done = none) : completeUnderReset e s = s := by
  simp [completeUnderReset, h]

theorem lateCompletion_none {e : Edge} (s : State) (h : e.done = none) : lateCompletion e s = s := by
  simp [lateCompletion, h]

@[simp] theorem resetBlock_fsm (e : Edge) (s : State) : (resetBlock e s).fsm = Fsm.reset := rfl
@[simp] theorem resetBlock_caller (e : Edge) (s : State) :
    (resetBlock e s).caller = { s.caller with chan := .idle } := rfl
@[simp] theorem resetBlock_inputs (e : Edge) (s : State) : (resetBlock e s).inputs = s.inputs := rfl
@[simp] theorem resetEdge_fsm (e : Edge) (s : State) : (resetEdge e s).fsm = Fsm.reset := by simp [resetEdge]
@[simp] theorem resetEdge_caller (e : Edge) (s : State) :
    (resetEdge e s).caller = { s.caller with chan := .idle } := by simp [resetEdge]
@[simp] theorem resetEdge_inputs (e : Edge) (s : State) : (resetEdge e s).inputs = s.inputs := by simp [resetEdge]

@[simp] theorem dropEdge_fsm (s : State) : (dropEdge s).fsm = s.fsm := rfl
@[simp] theorem dropEdge_transport (s : State) : (dropEdge s).transport = s.transport := rfl
@[simp] theorem dropEdge_caller (s : State) : (dropEdge s).caller = s.caller := rfl
@[simp] theorem dropEdge_inputs (s : State) : (dropEdge s).inputs = s.inputs.tail := rfl

theorem nextEdge_cons {s : State} {e : Edge} {es : List Edge} (h : s.inputs = e :: es) : nextEdge s = e := by
  simp [nextEdge, h]

theorem nextEdge_nil {s : State} (h : s.inputs = []) : nextEdge s = Edge.silent := by simp [nextEdge, h]

/-! ### One edge -/

theorem closeEdge_busy {e : Edge} {b t : State} {sent : List Byte} (hb : b.fsm.busy = true)
    (hd : e.done = some sent) : closeEdge e b t = completeCommand sent t := by simp [closeEdge, hb, hd]

theorem closeEdge_waits {e : Edge} {b t : State} (hb : b.fsm.busy = true) (hd : e.done = none) :
    closeEdge e b t = t := by simp [closeEdge, hb, hd]

theorem closeEdge_idle {e : Edge} {b t : State} (hb : b.fsm.busy = false) :
    closeEdge e b t = presentMode (lateCompletion e t) := by
  simp [closeEdge, hb]

/-! ### The meanings -/

@[simp] theorem exec_req1 (a : DevAddr) (c : Byte) (s : State) :
    exec (.req1 a c) s = .next (presentRequest false a c s) := rfl
@[simp] theorem exec_req2 (a : DevAddr) (c : Byte) (s : State) :
    exec (.req2 a c) s = .next (presentRequest true a c s) := rfl
@[simp] theorem exec_dec11 (w : Word) (s : State) : exec (.dec11 w) s = .next (setCaller (driveL11 w s.caller) s) := rfl
@[simp] theorem exec_dec16 (w : Word) (x : RawExp) (s : State) :
    exec (.dec16 w x) s = .next (setCaller (driveL16 w x s.caller) s) := rfl
@[simp] theorem exec_vin (s : State) : exec .vin s = .next (startChannel .vin s) := rfl
@[simp] theorem exec_vout (s : State) : exec .vout s = .next (startChannel .vout s) := rfl
@[simp] theorem exec_temp (s : State) : exec .temp s = .next (startChannel .temp s) := rfl
@[simp] theorem exec_iout (s : State) : exec .iout s = .next (startChannel .iout s) := rfl
@[simp] theorem exec_pout (s : State) : exec .pout s = .next (startChannel .pout s) := rfl

/-- What an operation can do to the state: present a request, begin a channel's pseudo-operation, or drive one
decoder's inputs. -/
theorem exec_cases {i : Instr} {s t : State} (h : exec i s = .next t) :
    (∃ len2 a c, t = presentRequest len2 a c s) ∨ (∃ ch, t = startChannel ch s) ∨
      (∃ w, t = setCaller (driveL11 w s.caller) s) ∨ (∃ w x, t = setCaller (driveL16 w x s.caller) s) := by
  cases i <;> simp only [exec_req1, exec_req2, exec_dec11, exec_dec16, exec_vin, exec_vout, exec_temp, exec_iout,
    exec_pout, Host.Outcome.next.injEq] at h <;> subst h
  case req1 => exact .inl ⟨_, _, _, rfl⟩
  case req2 => exact .inl ⟨_, _, _, rfl⟩
  case dec11 => exact .inr (.inr (.inl ⟨_, rfl⟩))
  case dec16 => exact .inr (.inr (.inr ⟨_, _, rfl⟩))
  all_goals exact .inr (.inl ⟨_, rfl⟩)

/-! ### The bundles of an edge -/

@[simp] theorem runBundles_nil (s : State) : runBundles [] s = .next s := rfl

theorem runBundles_cons {b : Bundle} {i : Instr} (bs : List Bundle) {s t : State} (hd : decode b = .ok i)
    (he : exec i s = .next t) : runBundles (b :: bs) s = runBundles bs t := by simp [runBundles, hd, he]

/-- The caller's inputs after the decoders have been driven. -/
def drivenCaller (e : Edge) (c : Caller) : Caller :=
  { c with
    l11Word := e.l11.getD c.l11Word
    l16Word := (e.l16.map (·.extractLsb' 0 16)).getD c.l16Word
    l16Exp := (e.l16.map (·.extractLsb' 16 5)).getD c.l16Exp }

/-- The state after the decoders have been driven. -/
def driven (e : Edge) (s : State) : State := setCaller (drivenCaller e s.caller) s

@[simp] theorem driven_fsm (e : Edge) (s : State) : (driven e s).fsm = s.fsm := rfl
@[simp] theorem driven_transport (e : Edge) (s : State) : (driven e s).transport = s.transport := rfl
@[simp] theorem driven_inputs (e : Edge) (s : State) : (driven e s).inputs = s.inputs := rfl
@[simp] theorem driven_chan (e : Edge) (s : State) : (driven e s).caller.chan = s.caller.chan := rfl
@[simp] theorem driven_result (e : Edge) (s : State) : (driven e s).caller.result = s.caller.result := rfl

theorem driven_none {e : Edge} (s : State) (h11 : e.l11 = none) (h16 : e.l16 = none) : driven e s = s := by
  simp [driven, drivenCaller, h11, h16, setCaller]

/-- The decoders' bundles never stop, and drive the decoders' inputs. -/
theorem runBundles_decodes (e : Edge) (bs : List Bundle) (s : State) :
    runBundles (e.decodes ++ bs) s = runBundles bs (driven e s) := by
  cases h11 : e.l11 <;> cases h16 : e.l16 <;>
    simp [Edge.decodes, h11, h16, runBundles, decode, driven, drivenCaller, setCaller, driveL11, driveL16]

theorem runReset_eq (e : Edge) (s : State) : runReset e s = .next (resetEdge e (driven e s)) := by
  have h := runBundles_decodes e [] s
  rw [List.append_nil] at h
  simp [runReset, h, andThen]

/-- Everything one step can do: the reset edge; or, on an edge that neither resets nor interleaves, the
caller's bundles (the decoders first), and what the edge does besides. -/
theorem step_cases {s s' : State} (h : step s = .next s') :
    ((nextEdge s).rst = true ∧ s' = resetEdge (nextEdge s) (driven (nextEdge s) (dropEdge s))) ∨
      ((nextEdge s).rst = false ∧ interleaved (nextEdge s) s = false ∧
        ∃ t, s' = closeEdge (nextEdge s) (dropEdge s) t ∧
          (((nextEdge s).request = none ∧
              t = driven (nextEdge s) (outsideEffect (nextEdge s).outside (dropEdge s))) ∨
            ∃ q i, (nextEdge s).request = some q ∧ decode q.bundle = .ok i ∧
              exec i (driven (nextEdge s) (outsideEffect (nextEdge s).outside (dropEdge s))) = .next t)) := by
  unfold step at h
  split at h
  · rename_i hr
    rw [runReset_eq] at h
    cases h
    exact .inl ⟨hr, rfl⟩
  · rename_i hr
    split at h
    · cases h
    · rename_i hi
      refine .inr ⟨by simpa using hr, by simpa using hi, ?_⟩
      unfold runEdge Edge.bundles at h
      rw [runBundles_decodes] at h
      cases hq : (nextEdge s).request with
      | none =>
        simp only [hq, Option.map_none, Option.toList_none, runBundles_nil, andThen] at h
        cases h
        exact ⟨_, rfl, .inl ⟨rfl, rfl⟩⟩
      | some q =>
        simp only [hq, Option.map_some, Option.toList_some, runBundles] at h
        cases hd : decode q.bundle with
        | error r => simp [hd, andThen] at h
        | ok i =>
          cases he : exec i (driven (nextEdge s) (outsideEffect (nextEdge s).outside (dropEdge s))) with
          | fault f => simp [hd, he, andThen] at h
          | refused r => simp [hd, he, andThen] at h
          | next t =>
            simp only [hd, he, andThen, Host.Outcome.next.injEq] at h
            exact ⟨t, h.symm, .inr ⟨q, i, rfl, hd, he⟩⟩

end Sys2Proof.Machine
end

