-- ==== Sys2Proof/Laws/PerInstr.lean ====
section
/-! SUPPORT. Statements made per instruction, about the instruction as syntax. RowPattern: an operation's bundle
lies on its row's port, under its row's pattern, and the row is in the table (R89). -/

namespace Sys2Proof.Laws.RowPattern

/-- The bundle of `i` falls under the pattern of the row of `i`. -/
def Statement (i : Instr) : Prop :=
  i.row ∈ opcodeRows ∧ i.row.admits (encode i).port (encode i).bits = true

/-- Bit 15 selects between the request rows. -/
theorem pattern_request (len2 : Bool) (a : DevAddr) (c : Byte) :
    (rqDescriptor len2 a c).toNat &&& 0x8000 = len2.toNat * 0x8000 := by
  have h := Nat.and_two_pow (rqDescriptor len2 a c).toNat 15
  rw [show (0x8000 : Nat) = 2 ^ 15 from rfl, h, ← BitVec.getLsbD, show (rqDescriptor len2 a c).getLsbD 15 = len2 from
    rqLen2_descriptor len2 a c]

/-- The command byte selects among the channels' rows, whatever the address. -/
theorem pattern_channel (ch : Channel) (a : DevAddr) :
    (rqDescriptor true a ch.command).toNat &&& 0x80FF = 0x8000 + ch.command.toNat := by
  revert a
  cases ch <;> decide

theorem req1 (a : DevAddr) (c : Byte) : Statement (.req1 a c) :=
  ⟨by simp [Instr.row, opcodeRows], by simp [Row.admits, Instr.row, encode, Bundle.port, Bundle.bits, pattern_request]⟩

theorem req2 (a : DevAddr) (c : Byte) : Statement (.req2 a c) :=
  ⟨by simp [Instr.row, opcodeRows], by simp [Row.admits, Instr.row, encode, Bundle.port, Bundle.bits, pattern_request]⟩

theorem dec11 (w : Word) : Statement (.dec11 w) :=
  ⟨by simp [Instr.row, opcodeRows], by simp [Row.admits, Instr.row, encode, Bundle.port]⟩

theorem dec16 (w : Word) (x : RawExp) : Statement (.dec16 w x) :=
  ⟨by simp [Instr.row, opcodeRows], by simp [Row.admits, Instr.row, encode, Bundle.port]⟩

/-- A channel's descriptor lies under its row's pattern. -/
theorem channel_row (ch : Channel) : Statement ch.instr := by
  cases ch <;>
    exact ⟨by simp [Instr.row, opcodeRows, Channel.instr], by
      have h := pattern_channel
      simp only [Row.admits, Instr.row, encode, Bundle.port, Bundle.bits, Channel.instr, h]
      decide⟩

theorem vin : Statement .vin := channel_row .vin

theorem vout : Statement .vout := channel_row .vout

theorem temp : Statement .temp := channel_row .temp

theorem iout : Statement .iout := channel_row .iout

theorem pout : Statement .pout := channel_row .pout

end Sys2Proof.Laws.RowPattern
end

