-- ==== Sys2Proof/Laws/Step.lean ====
section
/-! SUPPORT. Steps and runs: what a step does while the FSM is busy and while it is idle, that a decodable edge
without interference always answers a next state, and how runs compose. -/

namespace Sys2Proof.Machine

/-! ### Operations by the state of the port -/

/-- What an operation leaves alone whenever the request port is taken: everything but the decoders' inputs. -/
theorem exec_taken {i : Instr} {s t : State} (hp : portFree s = false) (h : exec i s = .next t) :
    t.fsm = s.fsm ∧ t.transport = s.transport ∧ t.inputs = s.inputs ∧ t.caller.chan = s.caller.chan ∧
      t.caller.result = s.caller.result := by
  obtain ⟨l, a, c, rfl⟩ | ⟨ch, rfl⟩ | ⟨w, rfl⟩ | ⟨w, x, rfl⟩ := exec_cases h
  · simp [presentRequest_taken _ _ _ hp]
  · simp [startChannel_taken _ hp]
  · simp
  · simp

theorem portFree_busy {s : State} (h : s.fsm.busy = true) : portFree s = false := by
  simp [portFree, Fsm.reqReady, h]

theorem portFree_chan {s : State} (h : s.caller.chan ≠ .idle) : portFree s = false := by
  simp [portFree, h]

/-- On a free port an operation either accepts its first request or leaves the FSM and the channel layer alone. -/
theorem exec_free {i : Instr} {s t : State} (hp : portFree s = true) (h : exec i s = .next t) :
    t.inputs = s.inputs ∧
      ((∃ q, firstRequest i = some q ∧ t.fsm = accept q.1 q.2.1 q.2.2 s.fsm ∧
          t.transport = openBus { s.transport with log := [] } ∧
          (t.caller = s.caller ∨ ∃ ch, q = (true, Config.devAddr, ch.command) ∧
            t.caller = { s.caller with chan := .word ch, result := none })) ∨
        (firstRequest i = none ∧ t.fsm = s.fsm ∧ t.transport = s.transport ∧ t.caller.chan = s.caller.chan ∧
          t.caller.result = s.caller.result)) := by
  cases i <;> simp only [exec_req1, exec_req2, exec_dec11, exec_dec16, exec_vin, exec_vout, exec_temp, exec_iout,
    exec_pout, Host.Outcome.next.injEq] at h <;> subst h
  case req1 a c =>
    rw [presentRequest_free _ _ _ hp]
    exact ⟨rfl, .inl ⟨_, rfl, rfl, rfl, .inl rfl⟩⟩
  case req2 a c =>
    rw [presentRequest_free _ _ _ hp]
    exact ⟨rfl, .inl ⟨_, rfl, rfl, rfl, .inl rfl⟩⟩
  case dec11 w => exact ⟨rfl, .inr ⟨rfl, rfl, rfl, rfl, rfl⟩⟩
  case dec16 w x => exact ⟨rfl, .inr ⟨rfl, rfl, rfl, rfl, rfl⟩⟩
  all_goals
    rw [startChannel_free _ hp]
    exact ⟨rfl, .inl ⟨_, rfl, rfl, rfl, .inr ⟨_, rfl, rfl⟩⟩⟩

/-! ### One step -/

theorem interleaved_quiet {e : Edge} {s : State} (h : e.outside = .quiet) : interleaved e s = false := by
  simp [interleaved, h]

theorem interleaved_idle {e : Edge} {s : State} (h : s.fsm.busy = false) : interleaved e s = false := by
  simp [interleaved, h]

theorem outside_quiet_of_busy {e : Edge} {s : State} (hb : s.fsm.busy = true) (h : interleaved e s = false) :
    e.outside = .quiet := by
  simpa [interleaved, hb] using h

/-- The edge of a step that neither resets nor interleaves, its bundles run. -/
theorem step_edge {s : State} (hr : (nextEdge s).rst = false) (hi : interleaved (nextEdge s) s = false) :
    step s = andThen (runBundles ((nextEdge s).request.map CallerRequest.bundle).toList
      (driven (nextEdge s) (outsideEffect (nextEdge s).outside (dropEdge s)))) (closeEdge (nextEdge s) (dropEdge s)) := by
  simp [step, hr, hi, runEdge, Edge.bundles, runBundles_decodes]

/-- An edge that does not reset, does not interleave and presents nothing the decoder rejects answers a next state. -/
theorem step_answers {s : State} (hr : (nextEdge s).rst = false) (hi : interleaved (nextEdge s) s = false)
    (ho : opDecodes (nextEdge s) = true) : ∃ t, step s = .next t := by
  rw [step_edge hr hi]
  cases hq : (nextEdge s).request with
  | none => exact ⟨_, rfl⟩
  | some q =>
    cases hd : decode q.bundle with
    | error r => simp [opDecodes, hq, hd] at ho
    | ok i =>
      obtain ⟨t, he⟩ :
          ∃ t, exec i (driven (nextEdge s) (outsideEffect (nextEdge s).outside (dropEdge s))) = .next t := by
        cases i <;> exact ⟨_, rfl⟩
      exact ⟨closeEdge (nextEdge s) (dropEdge s) t, by simp [runBundles, hd, he, andThen]⟩

/-- A reset edge. -/
theorem step_reset {s : State} (hr : (nextEdge s).rst = true) :
    step s = .next (resetEdge (nextEdge s) (driven (nextEdge s) (dropEdge s))) := by simp [step, hr, runReset_eq]

/-- A step of a busy FSM: the operation at the edge touches only the decoders' inputs, and the edge completes the
outstanding command or nothing. -/
theorem step_busy {s s' : State} (hb : s.fsm.busy = true) (hr : (nextEdge s).rst = false) (h : step s = .next s') :
    ∃ t : State, t.fsm = s.fsm ∧ t.transport = s.transport ∧ t.inputs = s.inputs.tail ∧
      t.caller.chan = s.caller.chan ∧ t.caller.result = s.caller.result ∧
      (((nextEdge s).done = none ∧ s' = t) ∨
        ∃ sent, (nextEdge s).done = some sent ∧ s' = completeCommand sent t) := by
  obtain ⟨hr', _⟩ | ⟨_, hi, t, rfl, ht⟩ := step_cases h
  · simp [hr] at hr'
  have hq := outside_quiet_of_busy hb hi
  rw [hq, outsideEffect_quiet] at ht
  have hb' : (dropEdge s).fsm.busy = true := hb
  have key : t.fsm = s.fsm ∧ t.transport = s.transport ∧ t.inputs = s.inputs.tail ∧
      t.caller.chan = s.caller.chan ∧ t.caller.result = s.caller.result := by
    rcases ht with ⟨_, rfl⟩ | ⟨b, i, _, _, he⟩
    · simp
    · simpa using exec_taken (s := driven (nextEdge s) (dropEdge s)) (portFree_busy hb') he
  refine ⟨t, key.1, key.2.1, key.2.2.1, key.2.2.2.1, key.2.2.2.2, ?_⟩
  cases hd : (nextEdge s).done with
  | none => exact .inl ⟨rfl, closeEdge_waits hb' hd⟩
  | some sent => exact .inr ⟨sent, rfl, closeEdge_busy hb' hd⟩

/-- A step of an idle FSM: a completion is ignored by the FSM, which accepts what stands on the request port. -/
theorem step_idle {s s' : State} (hb : s.fsm.busy = false) (hr : (nextEdge s).rst = false) (h : step s = .next s') :
    ∃ t : State, s' = presentMode (lateCompletion (nextEdge s) t) ∧
      (((nextEdge s).request = none ∧ t = driven (nextEdge s) (outsideEffect (nextEdge s).outside (dropEdge s))) ∨
        ∃ q i, (nextEdge s).request = some q ∧ decode q.bundle = .ok i ∧
          exec i (driven (nextEdge s) (outsideEffect (nextEdge s).outside (dropEdge s))) = .next t) := by
  obtain ⟨hr', _⟩ | ⟨_, hi, t, rfl, ht⟩ := step_cases h
  · simp [hr] at hr'
  · exact ⟨t, closeEdge_idle (by simpa using hb), ht⟩

/-- The registers after a completion in a busy state. -/
theorem step_completes {s : State} {sent : List Byte} (hc : CompletesNow s sent) (hb : s.fsm.busy = true) :
    ∃ t s', step s = .next s' ∧ s' = completeCommand sent t ∧ t.fsm = s.fsm ∧ t.transport = s.transport ∧
      t.inputs = s.inputs.tail ∧ t.caller.chan = s.caller.chan ∧ t.caller.result = s.caller.result := by
  obtain ⟨s', h⟩ := step_answers hc.1 (interleaved_quiet hc.2.1) hc.2.2.1
  obtain ⟨t, h1, h2, h3, h4, h5, ⟨hd, _⟩ | ⟨x, hd, rfl⟩⟩ := step_busy hb hc.1 h
  · rw [hc.2.2.2] at hd
    cases hd
  · rw [hc.2.2.2] at hd
    cases hd
    exact ⟨t, _, h, rfl, h1, h2, h3, h4, h5⟩

/-! ### Runs -/

theorem reaches_zero (s : State) : Reaches 0 s s := rfl

theorem reaches_succ_iff {k : Nat} {s t : State} :
    Reaches (k + 1) s t ↔ ∃ s', step s = .next s' ∧ Reaches k s' t := Iff.rfl

theorem reaches_succ {k : Nat} {s s' t : State} (h : step s = .next s') : Reaches (k + 1) s t ↔ Reaches k s' t := by
  rw [reaches_succ_iff]
  exact ⟨fun ⟨_, h1, h2⟩ => by rw [h] at h1; cases h1; exact h2, fun h2 => ⟨s', h, h2⟩⟩

/-- A run answers one state. -/
theorem reaches_unique {k : Nat} {s t u : State} (h : Reaches k s t) (h' : Reaches k s u) : t = u := by
  induction k generalizing s with
  | zero => exact h.symm.trans h'
  | succ k ih =>
    obtain ⟨s1, h1, h2⟩ := h
    exact ih h2 ((reaches_succ h1).1 h')

theorem run_next (M : Host.Core) (k : Nat) (s s' : M.State) (h : M.step s = .next s') :
    M.run (k + 1) s = M.run k s' := by
  show (match M.step s with
    | .next s' => M.run k s'
    | .fault r => .fault r
    | .refused r => .refused r) = _
  rw [h]

/-- The host's run and `Reaches` say the same. -/
theorem run_of_reaches {k : Nat} {s t : State} (h : Reaches k s t) : Host.Core.run Sys2Proof.core k s = .next t := by
  induction k generalizing s with
  | zero =>
    cases h
    rfl
  | succ k ih =>
    obtain ⟨s', hs, hk⟩ := h
    exact (run_next Sys2Proof.core k s s' hs).trans (ih hk)

theorem reaches_step {s s' : State} (h : step s = .next s') : Reaches 1 s s' := (reaches_succ h).2 rfl

/-- Runs compose. -/
theorem reaches_trans {j k : Nat} {s t u : State} (h : Reaches j s t) (h' : Reaches k t u) : Reaches (j + k) s u := by
  induction j generalizing s with
  | zero =>
    cases h
    simpa using h'
  | succ j ih =>
    obtain ⟨s', hs, hj⟩ := reaches_succ_iff.1 h
    rw [Nat.succ_add]
    exact (reaches_succ hs).2 (ih hj)

end Sys2Proof.Machine
end

