-- ==== Sys2Proof/Tests/Slice0.lean ====
section
/-! SUPPORT. Tests. Expected values are those of the spec's vectors (95_test_vectors.md, sections L1 to L3) or are
written out from the rule cited. The theorems `witness_<statement>` show concrete data that meet the hypotheses of
the statement of that name. -/

namespace Sys2Proof.Tests

open Sys2Proof.Machine

/-! ### Builders -/

/-- A state in the middle of a request to address 0x10, command 0x8D, with coming edges. -/
def midway (st : FsmState) (len2 : Bool) (word : Word) (es : List Edge) : State :=
  { State.reset with fsm := ⟨st, 0x10, 0x8D, len2, word, false, false⟩, inputs := es }

/-- The same, the device's bytes being in the receive buffer. -/
def reading (st : FsmState) (len2 : Bool) (word : Word) (rx : List Byte) (es : List Edge) : State :=
  { midway st len2 word es with transport := { State.reset.transport with rx := rx } }

/-- An idle machine with coming edges. -/
def idling (es : List Edge) : State := { State.reset with inputs := es }

/-- An idle machine whose channel layer waits to have its mode request accepted. -/
def pending (es : List Edge) : State :=
  { State.reset with
    fsm := ⟨.sIdle, 0x10, 0x8B, true, 0x03E8, true, false⟩
    caller := { State.reset.caller with chan := .modePending 0x03E8 false }
    inputs := es }

/-- An edge with `rst = 1`. -/
def resetting : Edge := { Edge.silent with rst := true }

/-- The registers after an outcome, none where it is a stop. -/
def fsmOf : Host.Outcome State Fault Refusal → Option Fsm
  | .next s => some s.fsm
  | .fault _ => none
  | .refused _ => none

/-- The result of the pseudo-operation after an outcome. -/
def resultOf : Host.Outcome State Fault Refusal → Option ChanResult
  | .next s => s.caller.result
  | .fault _ => none
  | .refused _ => none

/-! ### Well-formedness: each check refuses its ill-formed term -/

theorem test_wf_every_operation : (Instr.req2 0x7F 0xFF).wf = true ∧ (Instr.dec16 0xFFFF 31).wf = true := by decide

theorem test_wf_good_bundle : RawBundle.wf ⟨.linear16, 21, 0x1D03E8⟩ = true ∧ RawBundle.wf ⟨.channel, 16, 0x9088⟩ = true := by
  decide

theorem test_wf_refuses_width : RawBundle.wf ⟨.request, 15, 0x1020⟩ = false := by decide

theorem test_wf_refuses_value_too_big : RawBundle.wf ⟨.linear16, 21, 0x200000⟩ = false := by decide

theorem test_wf_refuses_input_current : RawBundle.wf ⟨.channel, 16, 0x9089⟩ = false := by decide

theorem test_wf_refuses_one_byte_channel : RawBundle.wf ⟨.channel, 16, 0x1088⟩ = false := by decide

theorem test_wf_good_call : RequestCall.wf ⟨0x7F, 0xFF, 1⟩ = true ∧ RequestCall.wf ⟨0, 0, 2⟩ = true := by decide

theorem test_wf_refuses_address : RequestCall.wf ⟨0x80, 0x20, 1⟩ = false := by decide

theorem test_wf_refuses_command : RequestCall.wf ⟨0x10, 0x100, 1⟩ = false := by decide

theorem test_wf_refuses_length : RequestCall.wf ⟨0x10, 0x20, 0⟩ = false ∧ RequestCall.wf ⟨0x10, 0x20, 3⟩ = false := by decide

/-! ### Decoding: words written out bit by bit -/

/-- `RQ`: LEN2 = 0, A = 0x10, C = 0x20 (R85; L2.1: 0x1020). -/
theorem test_decode_req1 : decode (.rq 0b0001000000100000#16) = .ok (.req1 0x10 0x20) ∧
    (0b0001000000100000 : Nat) = 0x1020 := ⟨rfl, rfl⟩

/-- `RQ`: LEN2 = 1, A = 0x5A, C = 0x8B (R85; L2.1: 0xDA8B). -/
theorem test_decode_req2 : decode (.rq 0b1101101010001011#16) = .ok (.req2 0x5A 0x8B) ∧
    (0b1101101010001011 : Nat) = 0xDA8B := ⟨rfl, rfl⟩

/-- `L11`: E = 0b11110, M = 100 (R82; L1 item 2: 0xF064). -/
theorem test_decode_dec11 : decode (.l11 0b1111000001100100#16) = .ok (.dec11 0xF064) := rfl

/-- `L16`: x = 0b11101 above w = 0x03E8 (R83; P3: 0x1D03E8). -/
theorem test_decode_dec16 : decode (.l16 0b111010000001111101000#21) = .ok (.dec16 0x03E8 0b11101) := rfl

/-- `RQ`: LEN2 = 1, A = 0x10 (the example address), C = 0x88 (P2: 0x9088). -/
theorem test_decode_vin : decode (.channel 0b1001000010001000#16) = .ok .vin := rfl

/-- C = 0x8B (P3: 0x908B). -/
theorem test_decode_vout : decode (.channel 0b1001000010001011#16) = .ok .vout := rfl

/-- C = 0x8D (P1: 0x908D). -/
theorem test_decode_temp : decode (.channel 0b1001000010001101#16) = .ok .temp := rfl

/-- C = 0x8C (P4: 0x908C). -/
theorem test_decode_iout : decode (.channel 0b1001000010001100#16) = .ok .iout := rfl

/-- C = 0x96 (P7: 0x9096). -/
theorem test_decode_pout : decode (.channel 0b1001000010010110#16) = .ok .pout := rfl

/-- The disabled input current, C = 0x89, is no channel (R199). -/
theorem test_decode_refuses_input_current :
    decode (.channel 0b1001000010001001#16) = .error (.notAChannel 0b1001000010001001#16) := rfl

/-- The other corners of `RQ` (L2.1: 0x0000 and 0xFFFF). -/
theorem test_decode_rq_corners : decode (.rq 0x0000) = .ok (.req1 0 0) ∧ decode (.rq 0xFFFF) = .ok (.req2 0x7F 0xFF) :=
  ⟨rfl, rfl⟩

theorem test_encode_req2 : encode (.req2 0x10 0x88) = .rq 0x9088 := rfl

theorem test_encode_dec16 : encode (.dec16 0x03E8 0b11101) = .l16 0x1D03E8 := rfl

theorem test_table_word : decodeTableWord 16 0x1020 = some (.req1 0x10 0x20) ∧
    decodeTableWord 24 0x1D03E8 = some (.dec16 0x03E8 0b11101) ∧ decodeTableWord 16 0x908D = some .temp := by decide

/-- R93: a length of 3 is refused by name. -/
theorem test_call_refuses_length : decodeCall ⟨0x10, 0x20, 3⟩ = .error (.length 3) := rfl

/-! ### Requests (L2.2) -/

/-- Single step 1: `S_IDLE`, `DONE = 1`, `ERR = 1`, accept `(1, 0x22, 0x8C)`. -/
theorem test_req2_accepts :
    fsmOf (exec (.req2 0x22 0x8C) { State.reset with fsm := ⟨.sIdle, 0, 0, false, 0x1234, true, true⟩ }) =
      some ⟨.sBegin, 0x22, 0x8C, true, 0x1234, false, false⟩ := rfl

/-- Trace B, step 8: accept `(0, 0x10, 0x20)`; `RAW_WORD` stays. -/
theorem test_req1_accepts :
    fsmOf (exec (.req1 0x10 0x20) { State.reset with fsm := ⟨.sIdle, 0x10, 0x8D, true, 0x1234, true, false⟩ }) =
      some ⟨.sBegin, 0x10, 0x20, false, 0x1234, false, false⟩ := rfl

/-- Single step 10: `S_WRITE`, a request `(0, 0x33, 0x01)` is presented, no completion: nothing changes. -/
theorem test_req1_while_busy :
    fsmOf (step (midway .sWrite true 0 [presenting (.rq 0x3301)])) = some ⟨.sWrite, 0x10, 0x8D, true, 0, false, false⟩ := rfl

/-- Single step 3: a stray completion in `S_IDLE` is ignored. -/
theorem test_stray_completion : fsmOf (step (idling [completing [0x12]])) = some Fsm.reset := rfl

/-- Trace A, steps 2 to 4. -/
theorem test_write_half :
    fsmOf (step (midway .sBegin true 0 [completing []])) = some ⟨.sWrite, 0x10, 0x8D, true, 0, false, false⟩ ∧
    fsmOf (step (midway .sWrite true 0 [completing []])) = some ⟨.sEnd, 0x10, 0x8D, true, 0, false, false⟩ ∧
    fsmOf (step (midway .sEnd true 0 [completing []])) = some ⟨.sReq, 0x10, 0x8D, true, 0, false, false⟩ := ⟨rfl, rfl, rfl⟩

/-- Trace A, step 5, and single steps 4 and 6: `LEN2_R = 1` with `k` = 2, 1, 3. -/
theorem test_req_two_bytes :
    fsmOf (step (midway .sReq true 0 [completing [0x34, 0x12]])) = some ⟨.sRdLo, 0x10, 0x8D, true, 0, false, false⟩ ∧
    fsmOf (step (midway .sReq true 0 [completing [0x34]])) = some ⟨.sRdLo, 0x10, 0x8D, true, 0, false, true⟩ ∧
    fsmOf (step (midway .sReq true 0 [completing [0x34, 0x12, 0x99]])) = some ⟨.sRdLo, 0x10, 0x8D, true, 0, false, true⟩ :=
  ⟨rfl, rfl, rfl⟩

/-- Single steps 7 to 9: `LEN2_R = 0` with `k` = 1, 2, 0. -/
theorem test_req_one_byte :
    fsmOf (step (midway .sReq false 0 [completing [0x56]])) = some ⟨.sRdLo, 0x10, 0x8D, false, 0, false, false⟩ ∧
    fsmOf (step (midway .sReq false 0 [completing [0x56, 0x78]])) = some ⟨.sRdLo, 0x10, 0x8D, false, 0, false, true⟩ ∧
    fsmOf (step (midway .sReq false 0 [completing []])) = some ⟨.sRdLo, 0x10, 0x8D, false, 0, false, true⟩ := ⟨rfl, rfl, rfl⟩

/-- Trace A, steps 6 and 7: 0x34 then 0x12. -/
theorem test_reads_two_bytes :
    fsmOf (step (reading .sRdLo true 0 [0x34, 0x12] [completing []])) = some ⟨.sRdHi, 0x10, 0x8D, true, 0x0034, false, false⟩ ∧
    fsmOf (step (reading .sRdHi true 0x0034 [0x12] [completing []])) = some ⟨.sIdle, 0x10, 0x8D, true, 0x1234, true, false⟩ :=
  ⟨rfl, rfl⟩

/-- L2.1 row 14: the old high byte does not survive a one-byte read. -/
theorem test_read_one_byte :
    fsmOf (step (reading .sRdLo false 0xF064 [0x1D] [completing []])) = some ⟨.sIdle, 0x10, 0x8D, false, 0x001D, true, false⟩ :=
  rfl

/-- L2.1 row 12: a missing byte is a draw, the high byte is still zero. -/
theorem test_read_missing_byte :
    (fsmOf (step (reading .sRdLo false 0xF064 [] [completing []]))).map (·.rawWord) = some (0#8 ++ Config.draw 0) := by
  have h : ∀ b : Byte, rawFirst b = (0#8 ++ b : Word) := by decide
  exact congrArg some (h (Config.draw 0))

/-- Single step 11: reset and a completion at the same edge in `S_RD_HI`. -/
theorem test_reset_beats_completion :
    fsmOf (step (reading .sRdHi true 0x0034 [0x12] [{ completing [] with rst := true }])) =
      some ⟨.sIdle, 0, 0, false, 0, false, false⟩ := rfl

/-- Single step 12: reset and a request at the same edge. -/
theorem test_reset_beats_request :
    fsmOf (step (idling [{ presenting (.rq 0x9088) with rst := true }])) = some ⟨.sIdle, 0, 0, false, 0, false, false⟩ := rfl

/-- R240, R254: the decoders follow their inputs at a reset edge too (`q` of L2.3 row 2 and L2.4 row 1). -/
theorem test_decodes_at_reset_edge : (match step (midway .sReq true 5 [{ resetting with l11 := some 0xF064, l16 := some 0x1D03E8 }]) with
    | .next s => decide (s.l11Q = 0x000C80000000) && decide (s.l16Q = 0x003E80000000) && decide (s.fsm = Fsm.reset)
    | .fault _ => false
    | .refused _ => false) = true := rfl

/-- R254: both decoders and a request at one edge. -/
theorem test_ports_are_separate :
    (match step (idling [{ presenting (.rq 0xDA20) with l11 := some 0xF064, l16 := some 0x1D03E8 }]) with
    | .next s => decide (s.l11Q = 0x000C80000000) && decide (s.l16Q = 0x003E80000000) &&
        decide (s.fsm = ⟨.sBegin, 0x5A, 0x20, true, 0, false, false⟩)
    | .fault _ => false
    | .refused _ => false) = true := rfl

/-- R31, R241, R242: `T_REQ` completes at a reset edge; the registers are reset, the bus is released. -/
theorem test_read_completes_at_reset_edge :
    (match step { midway .sReq true 5 [{ completing [7] with rst := true }] with
        transport := { State.reset.transport with bus := .held } } with
    | .next s => decide (s.transport.bus = .released) && decide (s.fsm = Fsm.reset)
    | .fault _ => false
    | .refused _ => false) = true := rfl

/-- R117, R121: the pins in `S_REQ` for two bytes. -/
theorem test_pins_in_req :
    portOut ⟨.sReq, 0x10, 0x8D, true, 0, false, false⟩ =
      ⟨false, true, false, false, 0, true, some 3, some 0x10, none, some 2, some true⟩ := by decide

/-- R121: a port-level step, `t_count = 3` with two bytes expected. -/
theorem test_clock_edge :
    (clockEdge ⟨false, false, false, 0, 0, true, 3, 0, false⟩ ⟨.sReq, 0x10, 0x8D, true, 0, false, false⟩).err = true := by decide

/-! ### The decoders (L2.3, L2.4) -/

/-- L2.3 rows 2 and 3. -/
theorem test_dec11_divides : dec11 0xF064 = 0x000C80000000 ∧ dec11 0x1864 = 0x000640000000 := by decide

/-- L2.3 rows 5, 10, 14 and 23. -/
theorem test_dec11_corners :
    dec11 0x07FF = 0x03FF80000000 ∧ dec11 0x8001 = 0x000000008000 ∧ dec11 0x7801 = 0x000000010000 ∧
      dec11 0xBC00 = 0x000100000000 := by decide

/-- L2.4 rows 1 and 15. -/
theorem test_dec16_negates_always : dec16 0x03E8 0b11101 = 0x003E80000000 ∧ dec16 0x03E8 0b00011 = 0x000000000FA0 := by decide

/-- L2.4 rows 4, 7, 14 and 16. -/
theorem test_dec16_corners :
    dec16 0xFFFF 0 = 0x7FFF80000000 ∧ dec16 0xFFFF 16 = 0x00007FFF8000 ∧ dec16 0x1234 15 = 0x0000048D0000 ∧
      dec16 0xFFFF 1 = 0x00000000FFFF := by decide

/-! ### The pseudo-operations (L2.6): the completing step -/

/-- A channel's request about to end with its second byte. -/
def lastByte (ch : Channel) (low high : Byte) : State :=
  { reading .sRdHi true (rawFirst low) [high] [completing []] with
    caller := { State.reset.caller with chan := .word ch } }

/-- Row 2: 0xF064 gives 25 (`q` of L2.3 row 2). -/
theorem test_vin_delivers : resultOf (step (lastByte .vin 0x64 0xF0)) = some ⟨0x000C80000000, false⟩ := rfl

/-- Row 9: 0xEB20 gives 100 (`q` of L2.3 row 25). -/
theorem test_temp_delivers : resultOf (step (lastByte .temp 0x20 0xEB)) = some ⟨0x003200000000, false⟩ := rfl

/-- Row 3: 0xD3E8 gives 15.625 (`q` of L2.3 row 20). -/
theorem test_iout_delivers : resultOf (step (lastByte .iout 0xE8 0xD3)) = some ⟨0x0007D0000000, false⟩ := rfl

/-- Row 4: 0xBC00 gives 2 (`q` of L2.3 row 23). -/
theorem test_pout_delivers : resultOf (step (lastByte .pout 0x00 0xBC)) = some ⟨0x000100000000, false⟩ := rfl

/-- P3: after the first transaction the layer has copied `w = 0x03E8`, `e1 = 0`, and there is no result yet. -/
theorem test_vout_copies : (match step (lastByte .vout 0xE8 0x03) with
    | .next s => decide (s.caller.chan = .modePending 0x03E8 false) && decide (s.caller.result = none)
    | .fault _ => false
    | .refused _ => false) = true := rfl

/-- Row 8: the mode byte 0xFD decodes as 0x1D, 0x03E8 gives 125; the two errors are combined (R198). -/
theorem test_vout_delivers :
    resultOf (step { reading .sRdLo false 0x03E8 [0xFD] [completing []] with
      caller := { State.reset.caller with chan := .mode 0x03E8 true } }) = some ⟨0x003E80000000, true⟩ := rfl

/-! ### Fetching -/

theorem test_fetch_req2 :
    fsmOf (step (State.reset.withFetchWord 16 0xDA20)) = some ⟨.sBegin, 0x5A, 0x20, true, 0, false, false⟩ := rfl

theorem test_fetch_dec16 : (match step (State.reset.withFetchWord 24 0x1D03E8) with
    | .next s => s.l16Q
    | .fault _ => 0
    | .refused _ => 0) = 0x003E80000000 := rfl

/-! ### Witnesses: reset -/

/-- An edge with `rst = 1` at which the caller drives both decoders. -/
def resettingDriven : Edge := { resetting with l11 := some 0xF064, l16 := some 0x1D03E8 }

/-- With nothing driven, and with both decoders driven. -/
theorem witness_ResetGivesEveryRegisterItsValue :
    (nextEdge (midway .sReq true 5 [resetting])).rst = true ∧ (nextEdge (midway .sReq true 5 [resetting])).outside = .quiet ∧
      (nextEdge (midway .sReq true 5 [resetting])).done = none ∧ (nextEdge (midway .sReq true 5 [resetting])).l16 = none ∧
      (nextEdge (midway .sReq true 5 [resettingDriven])).rst = true ∧
      (nextEdge (midway .sReq true 5 [resettingDriven])).l16 = some 0x1D03E8 := by decide

theorem witness_ResetBeatsRequestAndCompletion :
    (midway .sReq true 5 [resetting, presenting (.rq 0x9088)]).inputs = resetting :: [presenting (.rq 0x9088)] ∧
      resetting.rst = true ∧ (presenting (.rq 0x9088)).rst = false ∧ (presenting (.rq 0x9088)).request = some (.rq 0x9088) := by decide

theorem witness_ResetInsideATransaction_first :
    ∀ st ∈ [FsmState.sBegin, .sWrite, .sEnd, .sReq], (nextEdge (midway st true 5 [resetting])).rst = true ∧
      (nextEdge (midway st true 5 [resetting])).outside = .quiet ∧ (nextEdge (midway st true 5 [resetting])).done = none ∧
      (midway st true 5 [resetting]).fsm.state = st := by decide

theorem witness_ResetInsideATransaction_completing :
    (nextEdge (midway .sReq true 5 [{ completing [7] with rst := true }])).rst = true ∧
      (nextEdge (midway .sReq true 5 [{ completing [7] with rst := true }])).outside = .quiet ∧
      (nextEdge (midway .sReq true 5 [{ completing [7] with rst := true }])).done = some [7] ∧
      (midway .sReq true 5 [{ completing [7] with rst := true }]).fsm.state = .sReq := by decide

theorem witness_ResetInsideATransaction_second :
    CompletesNow (idling [completing []]) [] ∧ (nextEdge (idling [completing []])).request = none ∧
      (idling [completing []]).fsm.state = .sIdle ∧ (idling [completing []]).caller.chan = .idle := by decide

/-! ### Witnesses: acceptance -/

theorem witness_AcceptedRequestLatchesItsOperands :
    (idling []).fsm.state = .sIdle ∧ (idling []).caller.chan = .idle ∧ (nextEdge (idling [])).rst = false ∧
      (nextEdge (idling [])).request = none := by decide

theorem witness_RequestWhileBusyIsNotAccepted :
    (midway .sBegin true 0 []).fsm.busy = true ∧ (midway .sRdHi true 0 []).fsm.busy = true := by decide

/-- Both ways in which the port is taken. -/
theorem witness_TakenPortTurnsEveryRequestAway :
    portFree (midway .sBegin true 0 []) = false ∧ portFree (pending []) = false := by decide

theorem witness_PendingModeRequestIsAccepted :
    (pending [presenting (.rq 0x9088)]).caller.chan = .modePending 0x03E8 false ∧
      (pending [presenting (.rq 0x9088)]).fsm.state = .sIdle ∧ (nextEdge (pending [presenting (.rq 0x9088)])).rst = false ∧
      opDecodes (nextEdge (pending [presenting (.rq 0x9088)])) = true := by decide

/-! ### Witnesses: the steps of the FSM -/

theorem witness_StepOutOfBegin :
    CompletesNow (midway .sBegin true 0 [completing []]) [] ∧ (midway .sBegin true 0 [completing []]).fsm.state = .sBegin := by
  decide

theorem witness_StepOutOfWrite :
    CompletesNow (midway .sWrite true 0 [completing []]) [] ∧ (midway .sWrite true 0 [completing []]).fsm.state = .sWrite := by
  decide

theorem witness_StepOutOfEnd :
    CompletesNow (midway .sEnd true 0 [completing []]) [] ∧ (midway .sEnd true 0 [completing []]).fsm.state = .sEnd := by decide

/-- At `k = 0` and at `k = n`; also for ReadsReturnTheBytesInOrder. -/
theorem witness_StepOutOfReq :
    CompletesNow (midway .sReq true 0 [completing []]) [] ∧ (midway .sReq true 0 [completing []]).fsm.state = .sReq ∧
      CompletesNow (midway .sReq true 0 [completing [1, 2]]) [1, 2] ∧
      (midway .sReq true 0 [completing [1, 2]]).fsm.state = .sReq := by decide

/-- For both lengths. -/
theorem witness_StepOutOfRdLo :
    ∀ l : Bool, CompletesNow (midway .sRdLo l 0 [completing []]) [] ∧ (midway .sRdLo l 0 [completing []]).fsm.state = .sRdLo ∧
      (midway .sRdLo l 0 [completing []]).fsm.len2R = l := by decide

theorem witness_StepOutOfRdHi :
    CompletesNow (midway .sRdHi true 0 [completing []]) [] ∧ (midway .sRdHi true 0 [completing []]).fsm.state = .sRdHi := by decide

theorem witness_ReadsReturnTheBytesInOrder :
    CompletesNow (midway .sReq true 0 [completing [1, 2]]) [1, 2] ∧
      (midway .sReq true 0 [completing [1, 2]]).fsm.state = .sReq ∧
      CompletesNow (midway .sRdLo true 0 [completing []]) [] ∧ (midway .sRdLo true 0 [completing []]).fsm.state = .sRdLo ∧
      CompletesNow (midway .sRdHi true 0 [completing []]) [] ∧ (midway .sRdHi true 0 [completing []]).fsm.state = .sRdHi := by decide

/-- In every state but `S_IDLE`; a register file in each state meets the clause on it. -/
theorem witness_OutstandingCommandOfEachState :
    ∀ st ∈ [FsmState.sBegin, .sWrite, .sEnd, .sReq, .sRdLo, .sRdHi],
      WaitsNow (midway st true 0 []) ∧ (midway st true 0 []).fsm.busy = true ∧ (midway st true 0 []).fsm.state = st := by decide

/-- Each row of the table: the state, the edge, and that the step answers. -/
theorem witness_TransitionTable_reset :
    ∃ t, step (midway .sReq true 0 [resetting]) = .next t ∧ (nextEdge (midway .sReq true 0 [resetting])).rst = true := ⟨_, rfl, rfl⟩

theorem witness_TransitionTable_no_request :
    ∃ t, step (idling []) = .next t ∧ (nextEdge (idling [])).rst = false ∧ (idling []).fsm.state = .sIdle ∧
      requestPins (nextEdge (idling [])) (idling []) = none := ⟨_, rfl, rfl, rfl, rfl⟩

theorem witness_TransitionTable_request :
    ∃ t, step (idling [presenting (.rq 0xDA8B)]) = .next t ∧ (nextEdge (idling [presenting (.rq 0xDA8B)])).rst = false ∧
      (idling [presenting (.rq 0xDA8B)]).fsm.state = .sIdle ∧
      requestPins (nextEdge (idling [presenting (.rq 0xDA8B)])) (idling [presenting (.rq 0xDA8B)]) = some (true, 0x5A, 0x8B) :=
  ⟨_, rfl, rfl, rfl, rfl⟩

theorem witness_TransitionTable_waiting :
    ∃ t, step (midway .sEnd true 0 []) = .next t ∧ (nextEdge (midway .sEnd true 0 [])).rst = false ∧
      (midway .sEnd true 0 []).fsm.state ≠ .sIdle ∧ (nextEdge (midway .sEnd true 0 [])).done = none :=
  ⟨_, rfl, rfl, by decide, rfl⟩

theorem witness_TransitionTable_completing (st : FsmState) (l : Bool) :
    (∃ t, step (midway st l 0 [completing [7]]) = .next t) ∧ (nextEdge (midway st l 0 [completing [7]])).rst = false ∧
      (nextEdge (midway st l 0 [completing [7]])).done = some [7] ∧ (midway st l 0 [completing [7]]).fsm.state = st ∧
      (midway st l 0 [completing [7]]).fsm.len2R = l := by
  refine ⟨?_, rfl, rfl, rfl, rfl⟩
  cases st <;> exact ⟨_, rfl⟩

theorem witness_EveryStepIsOneClockEdge : ∃ t, step (midway .sReq true 0 [completing [7, 8]]) = .next t := ⟨_, rfl⟩

theorem witness_StatesFollowTheFixedOrder :
    ∃ t, step (midway .sEnd true 0 [completing []]) = .next t ∧ (nextEdge (midway .sEnd true 0 [completing []])).rst = false ∧
      (midway .sEnd true 0 [completing []]).fsm.state ≠ .sIdle ∧
      t.fsm.state ≠ (midway .sEnd true 0 [completing []]).fsm.state := ⟨_, rfl, rfl, by decide, by decide⟩

/-! ### Witnesses: who writes which register -/

theorem witness_LatchesChangeOnlyAtAcceptance :
    ∃ t, step (idling [presenting (.rq 0xDA8B)]) = .next t ∧ (nextEdge (idling [presenting (.rq 0xDA8B)])).rst = false :=
  ⟨_, rfl, rfl⟩

/-- `ERR` changes. -/
theorem witness_ErrIsWrittenOnceAndNeverRead :
    ∃ t, step (midway .sReq true 0 [completing []]) = .next t ∧ t.fsm.err ≠ (midway .sReq true 0 [completing []]).fsm.err :=
  ⟨_, rfl, by decide⟩

/-- The second clause where `ERR` is 1 and the step delivers it. -/
theorem witness_ErrIsWrittenOnceAndNeverRead_second :
    ∃ t, step { lastByte .vin 0x64 0xF0 with fsm := { (lastByte .vin 0x64 0xF0).fsm with err := true } } = .next t := ⟨_, rfl⟩

/-- `DONE` is set. -/
theorem witness_DoneIsSetByTheCompletingStep_set :
    ∃ t, step (reading .sRdLo false 0 [7] [completing []]) = .next t ∧
      (reading .sRdLo false 0 [7] [completing []]).fsm.done = false ∧ t.fsm.done = true := ⟨_, rfl, rfl, rfl⟩

/-- `DONE` is cleared. -/
theorem witness_DoneIsSetByTheCompletingStep_cleared :
    ∃ t, step (pending []) = .next t ∧ (pending []).fsm.done = true ∧ t.fsm.done = false := ⟨_, rfl, rfl, rfl⟩

theorem witness_ResultHoldsUntilNextAcceptance :
    ∃ t, step (pending []) = .next t ∧ (nextEdge (pending [])).rst = false ∧ (pending []).fsm.state = .sIdle ∧
      (pending []).fsm.done = true := ⟨_, rfl, rfl, rfl, rfl⟩

/-- A delivered result, and a next pseudo-operation. -/
theorem witness_ResultHoldsUntilNextAcceptance_result :
    ∃ t, step { idling [presenting (.channel 0x9088)] with
        caller := { State.reset.caller with result := some ⟨1, false⟩ } } = .next t ∧ t.caller.chan = .word .vin :=
  ⟨_, rfl, rfl⟩

theorem witness_BusyFromAcceptanceToCompletion_rises :
    ∃ t, step (idling [presenting (.rq 0xDA8B)]) = .next t ∧ (idling [presenting (.rq 0xDA8B)]).fsm.busy = false ∧
      t.fsm.busy = true := ⟨_, rfl, rfl, rfl⟩

theorem witness_BusyFromAcceptanceToCompletion_falls :
    ∃ t, step (reading .sRdLo false 0 [7] [completing []]) = .next t ∧
      (reading .sRdLo false 0 [7] [completing []]).fsm.busy = true ∧ t.fsm.busy = false := ⟨_, rfl, rfl, rfl⟩

/-- A state inside a request, with the bus held and the completed commands recorded. -/
def inReq : State :=
  { midway .sReq true 0 [completing [7, 8]] with
    transport := { State.reset.transport with bus := .held, log := [.tBegin 0x10, .tWrite 0x8D, .tEnd false] } }

theorem witness_EveryStepKeepsTheInvariant : MachineInv inReq ∧ ∃ t, step inReq = .next t := by
  refine ⟨⟨⟨by decide, by decide, by decide, by decide⟩, ⟨?_, ?_, ?_, by decide⟩, ⟨by decide, by decide, ?_, by decide⟩⟩, ⟨_, rfl⟩⟩
  all_goals
    intros
    rename_i h
    cases h

/-- A reset while the bus is held. -/
theorem witness_ResetInsideATransaction_held :
    (nextEdge { inReq with inputs := [resetting] }).rst = true ∧
      (nextEdge { inReq with inputs := [resetting] }).outside = .quiet ∧ inReq.fsm.state = .sReq ∧
      BusInv { inReq with inputs := [resetting] } := by
  refine ⟨rfl, rfl, rfl, by decide, by decide, ?_, by decide⟩
  intros
  rename_i h
  cases h

/-- A pseudo-operation in progress that meets the invariant of the channel layer, at a reset edge. -/
theorem witness_ResetInsideATransaction_layer :
    ∃ s : State, (nextEdge s).rst = true ∧ ChannelInv s ∧ s.caller.chan ≠ .idle := by
  refine ⟨pending [resetting], rfl, ⟨?_, ?_, ?_, by decide⟩, by decide⟩
  · intro ch h
    cases h
  · intro w e1 h
    cases h
    decide
  · intro w e1 h
    cases h

/-! ### Witnesses: whole runs -/

theorem witness_OneByteRequestCompletes :
    portFree (idling (requestCompletions false [0x56] ++ [])) = true ∧
      (idling (requestCompletions false [0x56] ++ [])).inputs = requestCompletions false [0x56] ++ [] := by decide

theorem witness_TwoByteRequestCompletes :
    portFree (idling (requestCompletions true [0x34, 0x12] ++ [])) = true ∧
      (idling (requestCompletions true [0x34, 0x12] ++ [])).inputs = requestCompletions true [0x34, 0x12] ++ [] := by decide

/-- A schedule with a silent edge and with a decode and a request presented during the run. -/
def schedule : List Edge :=
  [completing [], Edge.silent, completing [], { presenting (.rq 0x1020) with l11 := some 0xF064 }, completing [],
    completing [0x56], completing []]

/-- The same for two bytes. -/
def schedule2 : List Edge := schedule ++ [Edge.silent, completing []]

theorem witness_RequestRunsInAnySchedule :
    portFree (idling (schedule ++ [])) = true ∧ (idling (schedule ++ [])).inputs = schedule ++ [] ∧
      Schedule (4 + expectedLen false) schedule ∧ (idling (schedule2 ++ [])).inputs = schedule2 ++ [] ∧
      Schedule (4 + expectedLen true) schedule2 := by decide

theorem witness_EveryWordCanBeDelivered : portFree (idling []) = true := by decide

/-- Two idle states whose registers differ. -/
theorem witness_RequestIgnoresEarlierResults :
    ∃ s₁ s₂ t₁ t₂ : State, s₁.fsm ≠ s₂.fsm ∧ portFree s₁ = true ∧ portFree s₂ = true ∧ s₁.transport = s₂.transport ∧
      s₁.caller = s₂.caller ∧ s₁.inputs = s₂.inputs ∧ exec (.req2 0x10 0x8D) s₁ = .next t₁ ∧
      exec (.req2 0x10 0x8D) s₂ = .next t₂ ∧ ∃ u, Reaches 1 t₁ u :=
  ⟨idling [], { idling [] with fsm := ⟨.sIdle, 1, 2, true, 0xF064, true, true⟩ }, _, _, by decide, rfl, rfl, rfl, rfl, rfl,
    rfl, rfl, _, _, rfl, rfl⟩

theorem witness_WithoutCompletionTheRequestIsStuck :
    (midway .sEnd true 0 [presenting (.rq 0x9088)]).fsm.busy = true ∧ FsmInv (midway .sEnd true 0 [presenting (.rq 0x9088)]).fsm ∧
      ∀ e ∈ (midway .sEnd true 0 [presenting (.rq 0x9088)]).inputs,
        e.rst = false ∧ e.outside = .quiet ∧ opDecodes e = true ∧ e.done = none :=
  ⟨by decide, ⟨by decide, by decide, by decide, by decide⟩, by decide⟩

/-- A run that stands still. -/
theorem reaches_still {s : State} (h : step s = .next s) : ∀ {k : Nat} {t : State}, Reaches k s t → t = s
  | 0, _, hr => hr.symm
  | _ + 1, _, hr => reaches_still h ((reaches_succ h).1 hr)

/-- The last command of a one-byte request, completed at the coming edge. -/
def endingRequest : State := reading .sRdLo false 0 [7] [completing []]

/-- Its next state: idle for ever, as no edge brings anything. -/
def endedRequest : State :=
  { endingRequest with
    fsm := ⟨.sIdle, 0x10, 0x8D, false, 7, true, false⟩
    transport := { State.reset.transport with log := [.tRead] }
    inputs := [] }

theorem witness_LiveTransportCompletesEveryRequest :
    endingRequest.fsm.busy = true ∧ TransportLive endingRequest ∧ noReset endingRequest = true ∧ soleOwner endingRequest = true ∧
      opsDecode endingRequest = true := by
  refine ⟨rfl, ?_, rfl, rfl, rfl⟩
  intro k t hr hb
  cases k with
  | zero =>
    cases hr
    exact ⟨0, _, [], rfl, rfl, rfl⟩
  | succ k =>
    have h1 : step endingRequest = .next endedRequest := rfl
    have h2 : step endedRequest = .next endedRequest := rfl
    have h3 := reaches_still h2 ((reaches_succ h1).1 hr)
    rw [h3] at hb
    cases hb

/-- A one-byte `T_REQ` completed at the coming edge with one byte. -/
def completeRead : State := midway .sReq false 0 [completing [7]]

/-- Its next state, which waits for ever. -/
def waitingRead : State :=
  { completeRead with
    fsm := ⟨.sRdLo, 0x10, 0x8D, false, 0, false, false⟩
    transport := { State.reset.transport with rx := [7], bus := .released, log := [.tReq 0x10 1 true] }
    inputs := [] }

theorem witness_CompleteReadsLeaveNoError :
    completeRead.fsm.err = false ∧ CompleteReads completeRead ∧ Reaches 1 completeRead waitingRead := by
  have h1 : step completeRead = .next waitingRead := rfl
  have h2 : step waitingRead = .next waitingRead := rfl
  refine ⟨rfl, ?_, reaches_step h1⟩
  intro k t sent hr hq hd
  cases k with
  | zero =>
    cases hr
    cases hd
    rfl
  | succ k =>
    have h3 := reaches_still h2 ((reaches_succ h1).1 hr)
    rw [h3] at hq
    cases hq

/-! ### Witnesses: the decoders -/

theorem witness_DecodeFrame : ∃ s t u : State, exec (.dec11 0xF064) s = .next t ∧ exec (.dec16 0x03E8 29) s = .next u :=
  ⟨idling [], _, _, rfl, rfl⟩

/-- Both signs of the exponent, and a least and a greatest shift. -/
theorem witness_LinearElevenPortIsExact :
    (l11RawExp 0x07FF).getLsbD 4 = false ∧ (0 : Nat) < 31 - shift11 (l11RawExp 0x07FF) ∧
      (l11RawExp 0x8001).getLsbD 4 = true ∧ (14 : Nat) < 31 - shift11 (l11RawExp 0x8001) := by decide

theorem witness_LinearElevenValue : l11Mantissa 0x8001 ≠ 0 := by decide

/-- At the ends of each range: -16, 0, 1, 15, and the least mantissa with its top bit set. -/
theorem witness_LinearElevenAlwaysDividesUnsigned :
    (16#5).toInt ≤ 0 ∧ (0#5).toInt ≤ 0 ∧ 0 < (1#5).toInt ∧ 0 < (15#5).toInt ∧ (1024#11).getLsbD 10 = true := by decide

/-- On both sides of 16. -/
theorem witness_LinearElevenRoundTrip : 2047 < 2048 ∧ 31 < 32 ∧ 16 ≤ 16 ∧ 17 ≤ 17 := by decide

theorem witness_LinearSixteenValue :
    (0#5).toInt ≤ 0 ∧ (16#5).toInt ≤ 0 ∧ 0 < (1#5).toInt ∧ 0 < (15#5).toInt ∧ (1 : Word) ≠ 0 := by decide

theorem witness_LinearSixteenPortIsExact : (30 : Nat) < ((0 : RawExp) - 1).toNat := by decide

theorem witness_LinearSixteenShiftCount : 31 ≤ 31 := by decide

theorem witness_LinearSixteenRoundTrip : 31 < 32 := by decide

theorem witness_NegationNeedsOnlyFiveBits : 5 ≤ 5 ∧ 5 ≤ 16 := by decide

/-! ### Witnesses: the pseudo-operations -/

theorem witness_LinearElevenChannelsComplete :
    portFree (idling (schedule2 ++ [])) = true ∧ (idling (schedule2 ++ [])).inputs = schedule2 ++ [] ∧ Schedule 6 schedule2 ∧
      [0x56] = (answers schedule2).getD 3 [] := by decide

/-- The edge between the two runs brings the traffic of another agent. -/
theorem witness_OutputVoltageCompletes :
    portFree (idling (schedule2 ++ { Edge.silent with outside := .traffic } :: schedule ++ [])) = true ∧
      (idling (schedule2 ++ { Edge.silent with outside := .traffic } :: schedule ++ [])).inputs =
        schedule2 ++ { Edge.silent with outside := .traffic } :: schedule ++ [] ∧
      Schedule 6 schedule2 ∧ Schedule 5 schedule ∧ ({ Edge.silent with outside := .traffic } : Edge).rst = false ∧
      opDecodes { Edge.silent with outside := .traffic } = true := by decide

theorem witness_ModeByteUpperBitsAreIgnored :
    ∃ (r₁ r₂ : Fsm) (c : Caller), c.chan = .mode 0x03E8 false ∧ r₁.rawWord = rawFirst 0x1D ∧ r₂.rawWord = rawFirst 0xFD ∧
      r₁.err = r₂.err ∧ (0x1D : Byte) &&& 0x1F = 0xFD &&& 0x1F :=
  ⟨{ Fsm.reset with rawWord := rawFirst 0x1D }, { Fsm.reset with rawWord := rawFirst 0xFD },
    { State.reset.caller with chan := .mode 0x03E8 false }, rfl, rfl, rfl, rfl, by decide⟩

theorem witness_RequestFrame :
    ∀ i ∈ [Instr.req1 0x10 0x20, .req2 0x10 0x20, .vin, .vout, .temp, .iout, .pout], ∃ t, exec i (idling []) = .next t := by
  intro i _
  cases i <;> exact ⟨_, rfl⟩

/-! ### Witnesses: encodings, fetching, stops -/

/-- One bundle per port; the descriptor on the channel layer carries `DEV_ADDR`. -/
theorem witness_EncodeOfDecode :
    decode (.rq 0xDA8B) = .ok (.req2 0x5A 0x8B) ∧ decode (.l11 0xF064) = .ok (.dec11 0xF064) ∧
      decode (.l16 0x1D03E8) = .ok (.dec16 0x03E8 29) ∧
      decode (.channel (rqDescriptor true Config.devAddr 0x88)) = .ok .vin ∧
      rqAddr (rqDescriptor true Config.devAddr 0x88) = Config.devAddr := by
  have h : ∀ a : DevAddr, channelOf (rqDescriptor true a 0x88) = some .vin ∧ rqAddr (rqDescriptor true a 0x88) = a := by decide
  refine ⟨rfl, rfl, rfl, ?_, (h _).2⟩
  show (match channelOf (rqDescriptor true Config.devAddr 0x88) with
    | some ch => Except.ok ch.instr
    | none => Except.error (Reject.notAChannel (rqDescriptor true Config.devAddr 0x88))) = Except.ok Instr.vin
  rw [(h Config.devAddr).1]
  rfl

theorem witness_DescriptorsSpellExactlyOneRequest :
    (0x1020#16).getLsbD 15 = false ∧ (0xDA8B#16).getLsbD 15 = true ∧ decode (.channel 0xDA8B) = .ok (Channel.instr .vout) := by
  decide

theorem witness_OnlyIllFormedIsRejected : (127 : Nat) < 128 ∧ 255 < 256 ∧ (0 : Nat) ≠ 1 ∧ (3 : Nat) ≠ 2 := by decide

theorem witness_StepRunsTheDecodedOperation_first :
    ∃ t u v, decode (.rq 0xDA8B) = .ok (.req2 0x5A 0x8B) ∧ (Instr.req2 0x5A 0x8B).wf = true ∧
      exec (.req2 0x5A 0x8B) (idling []) = .next t ∧
      (nextEdge (idling [presenting (.rq 0xDA8B)])).rst = false ∧
      interleaved (nextEdge (idling [presenting (.rq 0xDA8B)])) (idling [presenting (.rq 0xDA8B)]) = false ∧
      runBundles (nextEdge (idling [presenting (.rq 0xDA8B)])).bundles
        (outsideEffect (nextEdge (idling [presenting (.rq 0xDA8B)])).outside
          (dropEdge (idling [presenting (.rq 0xDA8B)]))) = .next u ∧
      (nextEdge (idling [resettingDriven])).rst = true ∧
      runBundles (nextEdge (idling [resettingDriven])).decodes (dropEdge (idling [resettingDriven])) = .next v :=
  ⟨_, _, _, rfl, rfl, rfl, rfl, rfl, rfl, rfl, rfl⟩

theorem witness_StepRunsTheDecodedOperation_second :
    (idling [presenting (.rq 0xDA8B)]).inputs = presenting (.rq 0xDA8B) :: [] ∧
      decode (.rq 0xDA8B) = .ok (.req2 0x5A 0x8B) ∧ (Instr.req2 0x5A 0x8B).wf = true ∧
      (idling [presenting (.rq 0xDA8B)]).caller.chan = .idle ∧ (midway .sEnd true 0 [presenting (.rq 0xDA8B)]).fsm.busy = true :=
  ⟨rfl, rfl, rfl, rfl, rfl⟩

theorem witness_StepRunsTheDecodedOperation_third :
    decodeTableWord 16 0x1020 = some (.req1 0x10 0x20) ∧ (idling []).caller.chan = .idle := by decide

/-- Both stops of a step happen. -/
theorem witness_StepStopsOnlyByName :
    step (midway .sEnd true 0 [{ Edge.silent with outside := .traffic }]) = .fault .interleavedBus ∧
      step (idling [presenting (.channel 0x9089)]) = .refused (.rejected (.notAChannel 0x9089)) := ⟨rfl, rfl⟩

end Sys2Proof.Tests
end

namespace Sys2Proof.Machine

/-! ### One operation, and one edge that only presents it -/

/-- Every meaning is a next state (R11, R92). -/
theorem exec_answers (i : Instr) (s : State) : ∃ t, exec i s = .next t := by
  cases i <;> exact ⟨_, rfl⟩

theorem step_of_bundles {s t : State} (hr : (nextEdge s).rst = false) (hi : interleaved (nextEdge s) s = false)
    (h : runBundles (nextEdge s).bundles (outsideEffect (nextEdge s).outside (dropEdge s)) = .next t) :
    step s = .next (closeEdge (nextEdge s) (dropEdge s) t) := by
  simp [step, hr, hi, runEdge, h, andThen]

theorem step_of_reset_decodes {s t : State} (hr : (nextEdge s).rst = true)
    (h : runBundles (nextEdge s).decodes (dropEdge s) = .next t) : step s = .next (resetEdge (nextEdge s) t) := by
  simp [step, hr, runReset, h, andThen]

@[simp] theorem presenting_rst (b : Bundle) : (presenting b).rst = false := by cases b <;> rfl
@[simp] theorem presenting_outside (b : Bundle) : (presenting b).outside = .quiet := by cases b <;> rfl
@[simp] theorem presenting_done (b : Bundle) : (presenting b).done = none := by cases b <;> rfl
@[simp] theorem presenting_bundles (b : Bundle) : (presenting b).bundles = [b] := by cases b <;> rfl

/-- Where the channel layer is idle, no operation leaves a mode request pending. -/
theorem exec_not_pending {i : Instr} {s t : State} (hc : s.caller.chan = .idle) (h : exec i s = .next t) (w : Word)
    (e1 : Bool) : t.caller.chan ≠ .modePending w e1 := by
  cases hp : portFree s with
  | false =>
    obtain ⟨_, _, _, hchan, _⟩ := exec_taken hp h
    simp [hchan, hc]
  | true =>
    obtain ⟨_, ⟨_, _, _, _, hcaller | ⟨_, _, hcaller⟩⟩ | ⟨_, _, _, hchan, _⟩⟩ := exec_free hp h
    · simp [hcaller, hc]
    · simp [hcaller]
    · simp [hchan, hc]

/-- An edge that completes nothing adds nothing to an operation, unless a mode request is pending. -/
theorem closeEdge_after_exec {e : Edge} {i : Instr} {s t : State} (hd : e.done = none)
    (hp : s.fsm.busy = true ∨ s.caller.chan = .idle) (h : exec i s = .next t) : closeEdge e s t = t := by
  cases hb : s.fsm.busy with
  | true => exact closeEdge_waits hb hd
  | false =>
    have hc : s.caller.chan = .idle := hp.resolve_left (by simp [hb])
    rw [closeEdge_idle hb, lateCompletion_none t hd, presentMode_other (exec_not_pending hc h)]

/-- With one bundle alone at the edge and no mode request pending, the step is the operation. -/
theorem step_presenting {s : State} {b : Bundle} {i : Instr} {rest : List Edge} (hin : s.inputs = presenting b :: rest)
    (hd : decode b = .ok i) (hp : s.fsm.busy = true ∨ s.caller.chan = .idle) :
    step s = exec i { s with inputs := rest } := by
  have hn : nextEdge s = presenting b := nextEdge_cons hin
  have hdrop : dropEdge s = { s with inputs := rest } := by simp [dropEdge, setInputs, hin]
  obtain ⟨t, he⟩ := exec_answers i (dropEdge s)
  have hrun : runBundles (nextEdge s).bundles (outsideEffect (nextEdge s).outside (dropEdge s)) = .next t := by
    simp [hn, runBundles_cons [] hd he]
  rw [step_of_bundles (by simp [hn]) (interleaved_quiet (by simp [hn])) hrun,
    closeEdge_after_exec (by simp [hn]) (by simpa using hp) he, ← hdrop, he]

/-- A table word that decodes is a bundle that decodes. -/
theorem decodeTableWord_some {nbits w : Nat} {i : Instr} (h : decodeTableWord nbits w = some i) :
    ∃ b, tableBundle nbits w = some b ∧ decode b = .ok i := by
  unfold decodeTableWord at h
  cases hb : tableBundle nbits w with
  | none => simp [hb] at h
  | some b =>
    cases hd : decode b with
    | error r => simp [hb, hd] at h
    | ok j =>
      simp only [hb, hd, Option.some.injEq] at h
      exact ⟨b, rfl, h ▸ hd⟩

theorem step_withFetchWord {s : State} {nbits w : Nat} {i : Instr} (h : decodeTableWord nbits w = some i)
    (hp : s.fsm.busy = true ∨ s.caller.chan = .idle) : step (s.withFetchWord nbits w) = exec i s := by
  obtain ⟨b, hb, hd⟩ := decodeTableWord_some h
  have hplace : s.withFetchWord nbits w = setInputs (presenting b :: s.inputs) s := by
    simp [State.withFetchWord, placeOperation, hb]
  rw [hplace]
  exact step_presenting rfl hd hp

/-- Settles O59: each arm of `exec` answers a next state. -/
theorem everyOperationAnswersANextState : Obligations.EveryOperationAnswersANextState := exec_answers

/-- Settles O58: the clauses are the rules above, for bundles in turn, an edge of each kind and a table word. -/
theorem stepRunsTheDecodedOperation : Obligations.StepRunsTheDecodedOperation := by
  unfold Obligations.StepRunsTheDecodedOperation
  refine ⟨fun _ => rfl, ?_, ?_, ?_, ?_, ?_⟩
  · intro b bs i s t hd _ he
    exact runBundles_cons bs hd he
  · intro s t hr hi h
    exact step_of_bundles hr hi h
  · intro s t hr h
    exact step_of_reset_decodes hr h
  · intro s b i rest hin hd _ hp
    exact step_presenting hin hd hp
  · intro s nbits w i h hp
    exact step_withFetchWord h hp

end Sys2Proof.Machine

namespace Sys2Proof.Machine

/-! ### The rows of the port-level machine -/

/-- The saturated port comparison of R121 is the test of the answer `k`. -/
theorem saturate_ne_lenPins (k : Nat) (len2 : Bool) :
    (saturate k != lenPins len2) = incomplete k (expectedLen len2) := by
  match k with
  | 0 => cases len2 <;> decide
  | 1 => cases len2 <;> decide
  | 2 => cases len2 <;> decide
  | k + 3 =>
    have hs : saturate (k + 3) = 3 := by simp [saturate]
    have hk : k + 3 ≠ expectedLen len2 := by cases len2 <;> simp [expectedLen]
    simp only [hs, incomplete, hk, ne_eq, not_false_eq_true, decide_true]
    cases len2 <;> decide

theorem rawFirst_eq_append (b : Byte) : rawFirst b = 0#8 ++ b := by
  have hb := b.isLt
  apply BitVec.eq_of_toNat_eq
  show _ = BitVec.toNat (w := 8 + 8) (0#8 ++ b)
  rw [BitVec.toNat_append, rawFirst, BitVec.toNat_setWidth, Nat.mod_eq_of_lt (by omega)]
  simp

theorem clockEdge_reset {p : PortIn} (r : Fsm) (h : p.rst = true) : clockEdge p r = Fsm.reset := by
  simp [clockEdge, h]

theorem clockEdge_accepts {p : PortIn} {r : Fsm} (hr : p.rst = false) (hi : r.state = .sIdle) (hv : p.reqValid = true) :
    clockEdge p r = accept p.reqLen2 p.reqAddr p.reqCmd r := by
  simp [clockEdge, hr, hi, hv, accept, clearFlags]

theorem clockEdge_idles {p : PortIn} {r : Fsm} (hr : p.rst = false) (hi : r.state = .sIdle) (hv : p.reqValid = false) :
    clockEdge p r = r := by
  simp [clockEdge, hr, hi, hv]

theorem clockEdge_waits {p : PortIn} {r : Fsm} (hr : p.rst = false) (hb : r.busy = true) (hd : p.tDone = false) :
    clockEdge p r = r := by
  cases hs : r.state with
  | sIdle => exact absurd hs ((busy_iff r).1 hb)
  | sBegin | sWrite | sEnd | sReq | sRdLo | sRdHi => simp [clockEdge, hr, hs, hd]

/-- On `t_done` the port-level machine takes the row of R130 that the completion takes. -/
theorem clockEdge_completes {p : PortIn} {r : Fsm} {k : Nat} (hr : p.rst = false) (hb : r.busy = true)
    (hd : p.tDone = true) (hk : p.tCount = saturate k) : clockEdge p r = advance k p.tRdata r := by
  cases hs : r.state with
  | sIdle => exact absurd hs ((busy_iff r).1 hb)
  | sBegin => simp [clockEdge, hr, hs, hd, advance_begin, stepBegin]
  | sWrite => simp [clockEdge, hr, hs, hd, advance_write, stepWrite]
  | sEnd => simp [clockEdge, hr, hs, hd, advance_end, stepEnd]
  | sReq => simp [clockEdge, hr, hs, hd, hk, advance_req, stepReq, raiseIncomplete, saturate_ne_lenPins]
  | sRdLo =>
    cases hl : r.len2R with
    | false => simp [clockEdge, hr, hs, hd, hl, advance_rdLo, stepRdLo_one, rawFirst_eq_append]
    | true => simp [clockEdge, hr, hs, hd, hl, advance_rdLo, stepRdLo_two, rawFirst_eq_append]
  | sRdHi => simp [clockEdge, hr, hs, hd, advance_rdHi, stepRdHi, finishRequest, rawSecond]

/-! ### An idle step takes what stands on the request port -/

/-- Whatever the caller presents while the channel layer has the port, the FSM and the layer are as they were before
the edge's own part. -/
theorem operation_taken {e : Edge} {s t : State} (hc : s.caller.chan ≠ .idle)
    (ht : (e.request = none ∧ t = driven e (outsideEffect e.outside (dropEdge s))) ∨
      ∃ q i, e.request = some q ∧ decode q.bundle = .ok i ∧
        exec i (driven e (outsideEffect e.outside (dropEdge s))) = .next t) :
    t.fsm = s.fsm ∧ t.caller.chan = s.caller.chan := by
  obtain ⟨_, rfl⟩ | ⟨q, i, _, _, he⟩ := ht
  · simp
  · obtain ⟨hfsm, _, _, hchan, _⟩ := exec_taken (portFree_chan (by simpa using hc)) he
    exact ⟨by simpa using hfsm, by simpa using hchan⟩

/-- The registers after a step of the idle FSM: the request on the port is accepted; with none they stay (R116). -/
theorem step_idle_fsm {s s' : State} (hi : s.fsm.state = .sIdle) (hr : (nextEdge s).rst = false)
    (h : step s = .next s') :
    (∃ q, requestPins (nextEdge s) s = some q ∧ s'.fsm = accept q.1 q.2.1 q.2.2 s.fsm) ∨
      (requestPins (nextEdge s) s = none ∧ s'.fsm = s.fsm) := by
  obtain ⟨t, rfl, ht⟩ := step_idle ((not_busy_iff _).2 hi) hr h
  cases hc : s.caller.chan with
  | word ch =>
    obtain ⟨hfsm, hchan⟩ := operation_taken (by simp [hc]) ht
    exact .inr ⟨by simp [requestPins, hc], by simp [presentMode_other, hchan, hc, hfsm]⟩
  | mode w e1 =>
    obtain ⟨hfsm, hchan⟩ := operation_taken (by simp [hc]) ht
    exact .inr ⟨by simp [requestPins, hc], by simp [presentMode_other, hchan, hc, hfsm]⟩
  | modePending w e1 =>
    obtain ⟨hfsm, hchan⟩ := operation_taken (by simp [hc]) ht
    have hm := presentMode_pending (s := lateCompletion (nextEdge s) t) (w := w) (e1 := e1) (by simp [hchan, hc])
      (by simp [hfsm, hi])
    exact .inl ⟨(false, Config.devAddr, modeCommand), by simp [requestPins, hc], by simp [hm, hfsm]⟩
  | idle =>
    obtain ⟨hq, rfl⟩ | ⟨q, i, hq, hd, he⟩ := ht
    · exact .inr ⟨by simp [requestPins, hc, hq], by simp [presentMode_other, hc]⟩
    · have hpins : requestPins (nextEdge s) s = firstRequest i := by simp [requestPins, hc, hq, hd]
      have hmode : presentMode (lateCompletion (nextEdge s) t) = lateCompletion (nextEdge s) t :=
        presentMode_other (by simpa using exec_not_pending (by simpa using hc) he)
      rw [hpins, hmode, lateCompletion_fsm]
      obtain ⟨_, ⟨p, hp, hfsm, _⟩ | ⟨hp, hfsm, _⟩⟩ := exec_free ((portFree_iff _).2 (by simp [hi, hc])) he
      · exact .inl ⟨p, hp, by simpa using hfsm⟩
      · exact .inr ⟨hp, by simpa using hfsm⟩

/-- Settles O16: the reset edge, the busy step (waiting or completing) and the idle step (accepting or not) each take
the port-level machine's row. -/
theorem everyStepIsOneClockEdge : Obligations.EveryStepIsOneClockEdge := by
  unfold Obligations.EveryStepIsOneClockEdge
  intro s s' h
  cases hr : (nextEdge s).rst with
  | true =>
    rw [step_reset hr] at h
    cases h
    rw [resetEdge_fsm, clockEdge_reset _ (by simpa [pinsOf] using hr)]
  | false =>
    have hpr : (pinsOf (nextEdge s) s).rst = false := hr
    cases hb : s.fsm.busy with
    | true =>
      obtain ⟨t, hfsm, htr, _, _, _, ⟨hd, rfl⟩ | ⟨sent, hd, rfl⟩⟩ := step_busy hb hr h
      · rw [hfsm, clockEdge_waits hpr hb (by simp [pinsOf, hd])]
      · rw [completeCommand_fsm, hfsm, htr,
          clockEdge_completes (k := sent.length) hpr hb (by simp [pinsOf, hd]) (by simp [pinsOf, hd])]
        rfl
    | false =>
      have hi := (not_busy_iff _).1 hb
      obtain ⟨q, hq, hfsm⟩ | ⟨hq, hfsm⟩ := step_idle_fsm hi hr h
      · rw [hfsm, clockEdge_accepts hpr hi (by simp [pinsOf, hq])]
        simp [pinsOf, hq]
      · rw [hfsm, clockEdge_idles hpr hi (by simp [pinsOf, hq])]

end Sys2Proof.Machine

namespace Sys2Proof.Machine

/-! ### The bytes of a read, in order -/

/-- The `i`-th `T_READ` gives the `i`-th byte of the receive buffer, beyond the last a draw of its own (R124). -/
theorem readAnswer_takeByte_iterate (t : Transport) (i : Nat) :
    readAnswer (takeByte^[i] t) = receivedByte t.rx t.draws i := by
  induction i generalizing t with
  | zero => cases h : t.rx <;> simp [readAnswer, receivedByte, h]
  | succ i ih =>
    rw [Function.iterate_succ_apply, ih]
    cases h : t.rx with
    | nil => simp [takeByte, h, receivedByte, Nat.add_right_comm, Nat.add_assoc]
    | cons b bs => simp [takeByte, h, receivedByte]

theorem readAnswer_eq_receivedByte (t : Transport) : readAnswer t = receivedByte t.rx t.draws 0 :=
  readAnswer_takeByte_iterate t 0

theorem transportDone_log (cmd : TCmd) (sent : List Byte) (t : Transport) :
    (transportDone (some cmd) sent t).log = t.log ++ [cmd] := rfl

/-- After one `T_READ` the next answer is the second byte (R124). -/
theorem readAnswer_after_read (sent : List Byte) (t : Transport) :
    readAnswer (transportDone (some .tRead) sent t) = receivedByte t.rx t.draws 1 :=
  readAnswer_takeByte_iterate t 1

theorem rawSecond_rawFirst (hi lo : Byte) : rawSecond hi (rawFirst lo) = hi ++ lo := by
  rw [rawSecond, rawFirst, BitVec.extractLsb'_setWidth_of_le (by decide)]
  simp

/-! ### Completions in a row

While the FSM is busy, the registers and the transport go by the completions alone: `complete` is what one does to
the two, and a run over a schedule folds it over the answers. -/

/-- The registers and the transport after the completion of the outstanding command. -/
def complete (x : Fsm × Transport) (sent : List Byte) : Fsm × Transport :=
  (advance sent.length (readAnswer x.2) x.1, transportDone (outstanding x.1) sent x.2)

/-- How many commands the request in progress has still to complete (R113). -/
def remaining (r : Fsm) : Nat :=
  match r.state with
  | .sIdle => 0
  | .sBegin => 4 + expectedLen r.len2R
  | .sWrite => 3 + expectedLen r.len2R
  | .sEnd => 2 + expectedLen r.len2R
  | .sReq => 1 + expectedLen r.len2R
  | .sRdLo => expectedLen r.len2R
  | .sRdHi => 1

theorem busy_of_remaining {r : Fsm} (h : 0 < remaining r) : r.busy = true := by
  rw [busy_iff]
  intro hi
  simp [remaining, hi] at h

theorem remaining_advance (k : Nat) (b : Byte) (r : Fsm) : remaining (advance k b r) = remaining r - 1 := by
  cases hs : r.state with
  | sIdle => simp [advance_idle k b hs, remaining, hs]
  | sBegin => simp [advance_begin k b hs, remaining, hs]
  | sWrite => simp [advance_write k b hs, remaining, hs]
  | sEnd => simp [advance_end k b hs, remaining, hs]
  | sReq => simp [advance_req k b hs, remaining, hs]
  | sRdLo => cases hl : r.len2R <;> simp [advance_rdLo k b hs, stepRdLo_one, stepRdLo_two, remaining, hs, hl, expectedLen]
  | sRdHi => simp [advance_rdHi k b hs, remaining, hs]

theorem remaining_foldl_complete (cs : List (List Byte)) (x : Fsm × Transport) :
    remaining (cs.foldl complete x).1 = remaining x.1 - cs.length := by
  induction cs generalizing x with
  | nil => rfl
  | cons sent cs ih =>
    rw [List.foldl_cons, ih, complete, remaining_advance, List.length_cons, Nat.sub_sub, Nat.add_comm]

/-- One edge of a schedule in a busy state completes the outstanding command where it completes one, and nothing
else reaches the registers and the transport, whatever the caller presents. -/
theorem step_orderly {s : State} (hb : s.fsm.busy = true) (hr : (nextEdge s).rst = false)
    (hq : (nextEdge s).outside = .quiet) (ho : opDecodes (nextEdge s) = true) :
    ∃ s', step s = .next s' ∧ s'.inputs = s.inputs.tail ∧
      (s'.fsm, s'.transport) = (nextEdge s).done.toList.foldl complete (s.fsm, s.transport) := by
  obtain ⟨s', h⟩ := step_answers hr (interleaved_quiet hq) ho
  refine ⟨s', h, ?_⟩
  obtain ⟨t, hfsm, htr, hin, _, _, ⟨hd, rfl⟩ | ⟨sent, hd, rfl⟩⟩ := step_busy hb hr h
  · simp [hd, hfsm, htr, hin]
  · simp [hd, hfsm, htr, hin, complete]

theorem answers_cons (e : Edge) (es : List Edge) : answers (e :: es) = e.done.toList ++ answers es := by
  cases h : e.done <;> simp [answers, h]

theorem answers_pos {e : Edge} {es : List Edge} (h : ∀ e' ∈ (e :: es).getLast?, e'.done.isSome = true) :
    0 < (answers (e :: es)).length := by
  obtain ⟨sent, hs⟩ := Option.isSome_iff_exists.1 (h _ (List.getLast?_eq_getLast_of_ne_nil (List.cons_ne_nil e es)))
  exact List.length_pos_of_mem (List.mem_filterMap.2 ⟨_, List.getLast_mem _, hs⟩)

/-- A run over edges without reset or interference that complete as many commands as remain, the last edge completing
one: the registers and the transport have gone through exactly those completions. -/
theorem reaches_of_answers {es rest : List Edge} {s : State} (hin : s.inputs = es ++ rest)
    (horderly : ∀ e ∈ es, e.rst = false ∧ e.outside = .quiet ∧ opDecodes e = true)
    (hlast : ∀ e ∈ es.getLast?, e.done.isSome = true) (hcount : remaining s.fsm = (answers es).length) :
    ∃ u, Reaches es.length s u ∧ u.inputs = rest ∧
      (u.fsm, u.transport) = (answers es).foldl complete (s.fsm, s.transport) := by
  induction es generalizing s with
  | nil => exact ⟨s, rfl, hin, rfl⟩
  | cons e es ih =>
    have hn : nextEdge s = e := nextEdge_cons hin
    obtain ⟨hr, hq, ho⟩ := horderly e List.mem_cons_self
    have hb : s.fsm.busy = true := busy_of_remaining (hcount ▸ answers_pos hlast)
    obtain ⟨s', hstep, hin', hcore⟩ := step_orderly hb (hn ▸ hr) (hn ▸ hq) (hn ▸ ho)
    rw [hn] at hcore
    have hcount' : remaining s'.fsm = (answers es).length := by
      rw [show s'.fsm = (s'.fsm, s'.transport).1 from rfl, hcore, remaining_foldl_complete, hcount, answers_cons,
        List.length_append, Nat.add_sub_cancel_left]
    obtain ⟨u, hu, hrest, hucore⟩ := ih (by simp [hin', hin]) (fun e' he' => horderly e' (List.mem_cons_of_mem _ he'))
      (fun e' he' => hlast e' (List.mem_getLast?_cons he')) hcount'
    exact ⟨u, (reaches_succ hstep).2 hu, hrest, by rw [hucore, hcore, answers_cons, List.foldl_append]⟩

/-! ### The completions of one request (R113) -/

/-- The four completions up to the read request's answer `sent`. -/
theorem complete_until_read (len2 : Bool) (a : DevAddr) (c : Byte) (r : Fsm) (t : Transport)
    (x₀ x₁ x₂ sent : List Byte) :
    [x₀, x₁, x₂, sent].foldl complete (accept len2 a c r, t) =
      (⟨.sRdLo, a, c, len2, r.rawWord, false, incomplete sent.length (expectedLen len2)⟩,
        { t with rx := sent, bus := .released,
                 log := t.log ++ [.tBegin a, .tWrite c, .tEnd false, .tReq a (expectedLen len2) true] }) := by
  simp [complete, advance, outstanding, transportDone, transportEffect, accept, clearFlags, stepBegin, stepWrite, stepEnd,
    stepReq, raiseIncomplete]

/-- The reads that follow: the word, and the record of the commands. -/
theorem complete_reads (len2 : Bool) (a : DevAddr) (c : Byte) (w : Word) (err : Bool) (t : Transport)
    {reads : List (List Byte)} (hn : reads.length = expectedLen len2) :
    (reads.foldl complete (⟨.sRdLo, a, c, len2, w, false, err⟩, t)).1 =
        ⟨.sIdle, a, c, len2, resultWord len2 t.rx t.draws, true, err⟩ ∧
      (reads.foldl complete (⟨.sRdLo, a, c, len2, w, false, err⟩, t)).2.log =
        t.log ++ List.replicate (expectedLen len2) .tRead := by
  cases len2 with
  | false =>
    obtain ⟨x, rfl⟩ := List.length_eq_one_iff.1 hn
    simp [complete, advance, stepRdLo, finishRequest, outstanding, resultWord, readAnswer_eq_receivedByte,
      rawFirst_eq_append, transportDone_log, expectedLen]
  | true =>
    obtain ⟨x, y, rfl⟩ := List.length_eq_two.1 hn
    simp [complete, advance, stepRdLo, stepRdHi, finishRequest, outstanding, resultWord, readAnswer_eq_receivedByte t,
      readAnswer_after_read, rawSecond_rawFirst, transportDone_log, expectedLen]

theorem requestCommands_eq (len2 : Bool) (a : DevAddr) (c : Byte) :
    requestCommands len2 a c = [.tBegin a, .tWrite c, .tEnd false, .tReq a (expectedLen len2) true] ++
      List.replicate (expectedLen len2) .tRead := by
  cases len2 <;> rfl

/-- As many completions as a request has commands, from its acceptance to its end, whatever the answers. -/
theorem complete_request (len2 : Bool) (a : DevAddr) (c : Byte) (r : Fsm) (t : Transport) {cs : List (List Byte)}
    (hn : cs.length = 4 + expectedLen len2) :
    (cs.foldl complete (accept len2 a c r, t)).1 =
        ⟨.sIdle, a, c, len2, resultWord len2 (cs.getD 3 []) t.draws, true,
          incomplete (cs.getD 3 []).length (expectedLen len2)⟩ ∧
      (cs.foldl complete (accept len2 a c r, t)).2.log = t.log ++ requestCommands len2 a c := by
  match cs with
  | [] | [_] | [_, _] | [_, _, _] => exact absurd hn (by simp only [List.length_cons, List.length_nil]; omega)
  | x₀ :: x₁ :: x₂ :: sent :: reads =>
    have hreads : reads.length = expectedLen len2 := by
      simp only [List.length_cons] at hn
      omega
    rw [show x₀ :: x₁ :: x₂ :: sent :: reads = [x₀, x₁, x₂, sent] ++ reads from rfl, List.foldl_append,
      complete_until_read, requestCommands_eq, ← List.append_assoc]
    exact complete_reads len2 a c _ _ _ hreads

theorem exec_request_free {s : State} (len2 : Bool) (a : DevAddr) (c : Byte) (h : portFree s = true) :
    exec (if len2 then .req2 a c else .req1 a c) s = .next (acceptRequest len2 a c (clearLog s)) := by
  cases len2 <;> simp [presentRequest_free _ _ _ h]

/-- Settles O27, by induction over the schedule (`reaches_of_answers`), then the completions of one request. -/
theorem requestRunsInAnySchedule : Obligations.RequestRunsInAnySchedule := by
  unfold Obligations.RequestRunsInAnySchedule
  intro s len2 a c es rest hfree hin ⟨horderly, hlen, hlast⟩
  have hlast' : ∀ e ∈ es.getLast?, e.done.isSome = true := by
    intro e he
    simpa [Option.mem_def.1 he] using hlast
  obtain ⟨u, hu, hrest, hcore⟩ := reaches_of_answers (s := acceptRequest len2 a c (clearLog s)) (by simpa using hin)
    horderly hlast' (by simp [hlen, remaining])
  obtain ⟨hfsm, hlog⟩ := complete_request len2 a c s.fsm (openBus (clearLog s).transport) hlen
  refine ⟨_, u, exec_request_free len2 a c hfree, hu, ?_, ?_, hrest⟩
  · exact (congrArg Prod.fst hcore).trans hfsm
  · exact (congrArg (·.2.log) hcore).trans hlog

end Sys2Proof.Machine

namespace Sys2Proof.Machine

/-! ### The registers over one step

Every step moves the registers in one of four ways; who writes which register is read off these. -/

/-- What one step does to the registers, `r` being what they are after it: a reset, the acceptance of the request on
the port, the completion of the outstanding command, or nothing (R130). -/
inductive FsmMove (s : State) : Fsm → Prop where
  | resets (hr : (nextEdge s).rst = true) : FsmMove s Fsm.reset
  | accepts (hr : (nextEdge s).rst = false) (hi : s.fsm.state = .sIdle) (q : Bool × DevAddr × Byte)
      (hq : requestPins (nextEdge s) s = some q) : FsmMove s (accept q.1 q.2.1 q.2.2 s.fsm)
  | completes (hr : (nextEdge s).rst = false) (hb : s.fsm.busy = true) (sent : List Byte)
      (hd : (nextEdge s).done = some sent) : FsmMove s (advance sent.length (readAnswer s.transport) s.fsm)
  | stays (hr : (nextEdge s).rst = false) : FsmMove s s.fsm

theorem step_fsmMove {s t : State} (h : step s = .next t) : FsmMove s t.fsm := by
  cases hr : (nextEdge s).rst with
  | true =>
    rw [step_reset hr] at h
    cases h
    rw [resetEdge_fsm]
    exact .resets hr
  | false =>
    cases hb : s.fsm.busy with
    | true =>
      obtain ⟨t', hfsm, htr, _, _, _, ⟨_, rfl⟩ | ⟨sent, hd, rfl⟩⟩ := step_busy hb hr h
      · rw [hfsm]
        exact .stays hr
      · rw [completeCommand_fsm, hfsm, htr]
        exact .completes hr hb sent hd
    | false =>
      have hi := (not_busy_iff _).1 hb
      obtain ⟨q, hq, hfsm⟩ | ⟨_, hfsm⟩ := step_idle_fsm hi hr h
      · rw [hfsm]
        exact .accepts hr hi q hq
      · rw [hfsm]
        exact .stays hr

/-- A completion in a busy state leaves `BUSY` and `DONE` as they are, or it is the last of its request, which sets
`DONE` and returns to `S_IDLE` (R122, R123). -/
theorem advance_ends_or_goes_on (k : Nat) (b : Byte) {r : Fsm} (hb : r.busy = true) :
    ((advance k b r).busy = true ∧ (advance k b r).done = r.done) ∨
      ((advance k b r).state = .sIdle ∧ (advance k b r).done = true ∧
        ((r.state = .sRdLo ∧ r.len2R = false) ∨ r.state = .sRdHi)) := by
  cases hs : r.state with
  | sIdle => exact absurd hs ((busy_iff r).1 hb)
  | sBegin => simp [advance_begin k b hs, busy_iff]
  | sWrite => simp [advance_write k b hs, busy_iff]
  | sEnd => simp [advance_end k b hs, busy_iff]
  | sReq => simp [advance_req k b hs, busy_iff]
  | sRdLo => cases hl : r.len2R <;> simp [advance_rdLo k b hs, stepRdLo_one, stepRdLo_two, hl, busy_iff]
  | sRdHi => simp [advance_rdHi k b hs]

/-- The order of the states: where each completion goes (R24). -/
theorem advance_order (k : Nat) (b : Byte) {r : Fsm} (hb : r.busy = true) :
    (r.state = .sBegin ∧ (advance k b r).state = .sWrite) ∨ (r.state = .sWrite ∧ (advance k b r).state = .sEnd) ∨
      (r.state = .sEnd ∧ (advance k b r).state = .sReq) ∨ (r.state = .sReq ∧ (advance k b r).state = .sRdLo) ∨
      (r.state = .sRdLo ∧ r.len2R = true ∧ (advance k b r).state = .sRdHi) ∨
      (r.state = .sRdLo ∧ r.len2R = false ∧ (advance k b r).state = .sIdle) ∨
      (r.state = .sRdHi ∧ (advance k b r).state = .sIdle) := by
  cases hs : r.state with
  | sIdle => exact absurd hs ((busy_iff r).1 hb)
  | sBegin => simp [advance_begin k b hs]
  | sWrite => simp [advance_write k b hs]
  | sEnd => simp [advance_end k b hs]
  | sReq => simp [advance_req k b hs]
  | sRdLo => cases hl : r.len2R <;> simp [advance_rdLo k b hs, stepRdLo_one, stepRdLo_two, hl]
  | sRdHi => simp [advance_rdHi k b hs]

/-! ### The invariant, part by part -/

theorem fsmInv_reset : FsmInv Fsm.reset := ⟨by decide, by decide, by decide, by decide⟩

theorem fsmInv_accept (len2 : Bool) (a : DevAddr) (c : Byte) (r : Fsm) : FsmInv (accept len2 a c r) := by
  constructor <;> simp

theorem rawFirst_high (b : Byte) : (rawFirst b).extractLsb' 8 8 = 0 := by
  rw [rawFirst]
  ext i hi
  simp

/-- A completion keeps the agreement of the registers: each row of R130 gives what the next state needs. -/
theorem fsmInv_advance (k : Nat) (b : Byte) {r : Fsm} (hb : r.busy = true) (h : FsmInv r) : FsmInv (advance k b r) := by
  have hdone : r.done = false := by
    cases hd : r.done with
    | false => rfl
    | true => simp [h.done_idle hd] at hb
  cases hs : r.state with
  | sIdle => exact absurd hs ((busy_iff r).1 hb)
  | sBegin =>
    rw [advance_begin k b hs]
    constructor <;> simp [hdone, h.err_clear (.inl hs)]
  | sWrite =>
    rw [advance_write k b hs]
    constructor <;> simp [hdone, h.err_clear (.inr (.inl hs))]
  | sEnd =>
    rw [advance_end k b hs]
    constructor <;> simp [hdone, h.err_clear (.inr (.inr (.inl hs)))]
  | sReq =>
    rw [advance_req k b hs]
    constructor <;> simp [hdone]
  | sRdLo =>
    rw [advance_rdLo k b hs]
    cases hl : r.len2R with
    | false =>
      rw [stepRdLo_one b r hl]
      constructor <;> simp [not_busy_iff]
    | true =>
      rw [stepRdLo_two b r hl]
      constructor <;> simp [hdone, hl, rawFirst_high]
  | sRdHi =>
    rw [advance_rdHi k b hs]
    constructor <;> simp [not_busy_iff]

/-- The record grows by exactly the outstanding command (R113, R117). -/
theorem completedCommands_advance (k : Nat) (b : Byte) {r : Fsm} (h : FsmInv r) {cmd : TCmd}
    (hc : outstanding r = some cmd) : completedCommands (advance k b r) = completedCommands r ++ [cmd] := by
  cases hs : r.state with
  | sIdle => simp [outstanding, hs] at hc
  | sBegin | sWrite | sEnd | sReq =>
    simp only [outstanding, hs, Option.some.injEq] at hc
    simp [advance, hs, completedCommands, completedCount, requestCommands, ← hc]
  | sRdLo =>
    simp only [outstanding, hs, Option.some.injEq] at hc
    cases hl : r.len2R <;> simp [advance_rdLo k b hs, stepRdLo_one, stepRdLo_two, hs, hl, completedCommands,
      completedCount, requestCommands, expectedLen, ← hc]
  | sRdHi =>
    simp only [outstanding, hs, Option.some.injEq] at hc
    simp [advance_rdHi k b hs, hs, h.hi_two hs, completedCommands, completedCount, requestCommands, expectedLen, ← hc]

/-- What taking the word of a completed request leaves of the channel layer: it is idle; or it holds the word and error
just copied, for `VOUT`; or it had no request running and is as it was. -/
theorem takeWord_cases (r : Fsm) (c : Caller) :
    (takeWord r c).chan = .idle ∨
      (c.chan = .word .vout ∧ takeWord r c = { c with chan := .modePending r.rawWord r.err }) ∨
      ∃ w e1, c.chan = .modePending w e1 := by
  cases hc : c.chan with
  | idle => simp [takeWord, hc]
  | word ch => cases ch <;> simp [takeWord, hc]
  | modePending w e1 => exact .inr (.inr ⟨w, e1, rfl⟩)
  | mode w e1 => simp [takeWord, hc]

theorem channelInv_of_idle {s : State} (h : s.caller.chan = .idle) : ChannelInv s := by
  constructor <;> simp [h]

theorem channelInv_completeCommand (sent : List Byte) {s : State} (hb : s.fsm.busy = true) (h : ChannelInv s) :
    ChannelInv (completeCommand sent s) := by
  obtain ⟨ha, hc, hl⟩ := advance_latches sent.length (readAnswer s.transport) s.fsm
  have hnp : ∀ w e1, s.caller.chan ≠ .modePending w e1 := by
    intro w e1 hp
    simp [(h.pending_copied w e1 hp).1] at hb
  obtain ⟨hgo, _⟩ | ⟨hend, hdone, _⟩ := advance_ends_or_goes_on sent.length (readAnswer s.transport) hb
  · have hcaller : (completeCommand sent s).caller = s.caller := by simp [completeCommand_caller, hgo]
    constructor
    · intro ch hw
      obtain ⟨_, hw⟩ := h.word_runs ch (hcaller ▸ hw)
      simpa [hgo, ha, hc, hl] using hw
    · intro w e1 hp
      exact absurd (hcaller ▸ hp) (hnp w e1)
    · intro w e1 hm
      obtain ⟨_, hm⟩ := h.mode_runs w e1 (hcaller ▸ hm)
      simpa [hgo, ha, hc, hl] using hm
    · rw [hcaller]
      exact h.no_result
  · have hidle := (not_busy_iff _).2 hend
    have hcaller : (completeCommand sent s).caller =
        takeWord (advance sent.length (readAnswer s.transport) s.fsm) s.caller := by
      simp [completeCommand_caller, hb, hidle]
    obtain hchan | ⟨hv, htake⟩ | ⟨w, e1, hp⟩ :=
      takeWord_cases (advance sent.length (readAnswer s.transport) s.fsm) s.caller
    · exact channelInv_of_idle (by rw [hcaller, hchan])
    · rw [htake] at hcaller
      constructor <;> simp [hcaller, hidle, hdone, h.no_result (by simp [hv])]
    · exact absurd hp (hnp w e1)

theorem takeByte_bus (t : Transport) : (takeByte t).bus = t.bus := by
  unfold takeByte
  split <;> rfl

/-- The bus is held when a completion leads to `S_REQ`: the completed command was `T_END(0)` (R31). -/
theorem transportDone_bus_held {k : Nat} {b : Byte} {r : Fsm} (sent : List Byte) (t : Transport) (hb : r.busy = true)
    (hn : (advance k b r).state = .sReq) : (transportDone (outstanding r) sent t).bus = .held := by
  obtain ⟨_, h⟩ | ⟨_, h⟩ | ⟨hs, _⟩ | ⟨_, h⟩ | ⟨_, _, h⟩ | ⟨_, _, h⟩ | ⟨_, h⟩ := advance_order k b hb
  case inr.inr.inl => simp [outstanding, hs, transportDone, transportEffect]
  all_goals simp [h] at hn

/-- The bus is released when a completion leads to a read or ends the request: `T_REQ` releases it, a read keeps it
so (R31). -/
theorem transportDone_bus_released {k : Nat} {b : Byte} {r : Fsm} (sent : List Byte) {t : Transport}
    (hb : r.busy = true) (hrel : r.state = .sRdLo ∨ r.state = .sRdHi → t.bus = .released)
    (hn : (advance k b r).state = .sRdLo ∨ (advance k b r).state = .sRdHi ∨ (advance k b r).state = .sIdle) :
    (transportDone (outstanding r) sent t).bus = .released := by
  obtain ⟨_, h⟩ | ⟨_, h⟩ | ⟨_, h⟩ | ⟨hs, _⟩ | ⟨hs, _⟩ | ⟨hs, _⟩ | ⟨hs, _⟩ := advance_order k b hb
  case inr.inr.inr.inl => simp [outstanding, hs, transportDone, transportEffect]
  case inl | inr.inl | inr.inr.inl => simp [h] at hn
  all_goals simpa [outstanding, hs, transportDone, transportEffect, takeByte_bus] using hrel

theorem outstanding_of_busy {r : Fsm} (hb : r.busy = true) : ∃ cmd, outstanding r = some cmd := by
  cases hs : r.state with
  | sIdle => exact absurd hs ((busy_iff r).1 hb)
  | sBegin | sWrite | sEnd | sReq | sRdLo | sRdHi => simp [outstanding, hs]

theorem busInv_completeCommand (sent : List Byte) {s : State} (hb : s.fsm.busy = true) (hf : FsmInv s.fsm)
    (hch : ChannelInv s) (h : BusInv s) : BusInv (completeCommand sent s) := by
  constructor
  · exact transportDone_bus_held sent s.transport hb
  · intro hread
    exact transportDone_bus_released sent hb h.read_released (hread.imp_right .inl)
  · intro w e1 hp
    obtain ⟨hgo, _⟩ | ⟨hend, _⟩ := advance_ends_or_goes_on sent.length (readAnswer s.transport) hb
    · have hold := hch.pending_copied w e1 (by simpa [completeCommand_caller, hgo] using hp)
      simp [hold.1] at hb
    · exact transportDone_bus_released sent hb h.read_released (.inr (.inr hend))
  · intro _
    obtain ⟨cmd, hcmd⟩ := outstanding_of_busy hb
    obtain ⟨p, hp⟩ := h.log_run (.inl hb)
    rw [completeCommand_fsm, completeCommand_transport, completedCommands_advance _ _ hf hcmd, hcmd, transportDone_log]
    exact ⟨p, by rw [← List.append_assoc, hp]⟩

theorem machineInv_completeCommand (sent : List Byte) {s : State} (hb : s.fsm.busy = true) (h : MachineInv s) :
    MachineInv (completeCommand sent s) :=
  ⟨fsmInv_advance _ _ hb h.fsm, channelInv_completeCommand sent hb h.channel,
    busInv_completeCommand sent hb h.fsm h.channel h.bus⟩

/-- The invariant does not look at the decoders' inputs and the coming edges. -/
theorem machineInv_congr {s t : State} (hfsm : t.fsm = s.fsm) (htr : t.transport = s.transport)
    (hchan : t.caller.chan = s.caller.chan) (hres : t.caller.result = s.caller.result) (h : MachineInv s) :
    MachineInv t := by
  obtain ⟨hf, ⟨hw, hp, hm, hn⟩, hreq, hread, hrel, hlog⟩ := h
  rw [← hfsm] at hf hw hp hm hreq hread hlog
  rw [← htr] at hreq hread hrel hlog
  rw [← hchan] at hw hp hm hn hrel
  exact ⟨hf, ⟨hw, hp, hm, hres ▸ hn⟩, hreq, hread, hrel, hlog⟩

/-! ### The invariant at an idle edge -/

theorem busInv_of_begin {s : State} (hs : s.fsm.state = .sBegin) (hc : ∀ w e1, s.caller.chan ≠ .modePending w e1) :
    BusInv s := by
  constructor
  · simp [hs]
  · simp [hs]
  · intro w e1 hp
    exact absurd hp (hc w e1)
  · simp [completedCommands, completedCount, hs]

/-- An idle edge on a free port accepts the caller's request or a channel's first, or leaves the registers, the
record and the channel layer as they are. -/
theorem step_portFree {s t : State} (hp : portFree s = true) (hr : (nextEdge s).rst = false) (h : step s = .next t) :
    (∃ len2 a c, t.fsm = accept len2 a c s.fsm ∧
        ((t.caller.chan = .idle ∧ t.caller.result = s.caller.result) ∨ ∃ ch, len2 = true ∧ a = Config.devAddr ∧
          c = ch.command ∧ t.caller.chan = .word ch ∧ t.caller.result = none)) ∨
      (t.fsm = s.fsm ∧ t.transport.log = s.transport.log ∧ t.caller.chan = .idle ∧
        t.caller.result = s.caller.result) := by
  obtain ⟨hi, hc⟩ := (portFree_iff s).1 hp
  obtain ⟨u, rfl, ⟨_, rfl⟩ | ⟨q, i, _, _, he⟩⟩ := step_idle ((not_busy_iff _).2 hi) hr h
  · exact .inr (by simp [presentMode_other, hc])
  · rw [presentMode_other (by simpa using exec_not_pending (by simpa using hc) he)]
    obtain ⟨_, ⟨q, _, hfsm, _, hcaller | ⟨ch, rfl, hcaller⟩⟩ | ⟨_, hfsm, htr, hchan, hres⟩⟩ :=
      exec_free (by simpa [portFree_iff] using hp) he
    · exact .inl ⟨_, _, _, by simpa using hfsm, .inl (by simp [hcaller, hc])⟩
    · exact .inl ⟨_, _, _, by simpa using hfsm, .inr ⟨ch, rfl, rfl, rfl, by simp [hcaller]⟩⟩
    · exact .inr (by simp [hfsm, htr, hchan, hres, hc])

/-- An idle edge with `VOUT`'s mode request pending accepts it, whatever the caller presents (R193). -/
theorem step_modePending {s t : State} {w : Word} {e1 : Bool} (hi : s.fsm.state = .sIdle)
    (hc : s.caller.chan = .modePending w e1) (hr : (nextEdge s).rst = false) (h : step s = .next t) :
    t.fsm = accept false Config.devAddr modeCommand s.fsm ∧ t.caller.chan = .mode w e1 ∧
      t.caller.result = s.caller.result := by
  obtain ⟨u, rfl, hu⟩ := step_idle ((not_busy_iff _).2 hi) hr h
  obtain ⟨hfsm, hchan⟩ := operation_taken (by simp [hc]) hu
  have hres : u.caller.result = s.caller.result := by
    obtain ⟨_, rfl⟩ | ⟨q, i, _, _, he⟩ := hu
    · simp
    · obtain ⟨_, _, _, _, hres⟩ := exec_taken (portFree_chan (by simp [hc])) he
      simpa using hres
  rw [presentMode_pending (w := w) (e1 := e1) (by simp [hchan, hc]) (by simp [hfsm, hi])]
  simp [hfsm, hres]

theorem machineInv_reset {s : State} (hf : s.fsm = Fsm.reset) (hc : s.caller.chan = .idle) : MachineInv s := by
  refine ⟨hf ▸ fsmInv_reset, channelInv_of_idle hc, ?_⟩
  constructor <;> simp [hf, hc, Fsm.reset, Fsm.busy]

/-- Settles O23: a reset gives the invariant outright; a busy edge keeps it or completes a command; an idle edge
accepts a request, on a free port or for `VOUT`'s pending mode request, or leaves the registers alone. -/
theorem everyStepKeepsTheInvariant : Obligations.EveryStepKeepsTheInvariant := by
  unfold Obligations.EveryStepKeepsTheInvariant
  intro s t hinv h
  cases hr : (nextEdge s).rst with
  | true =>
    rw [step_reset hr] at h
    cases h
    exact machineInv_reset (by simp) (by simp)
  | false =>
    cases hb : s.fsm.busy with
    | true =>
      obtain ⟨u, hfsm, htr, _, hchan, hres, hu⟩ := step_busy hb hr h
      have hinv' := machineInv_congr hfsm htr hchan hres hinv
      obtain ⟨_, rfl⟩ | ⟨sent, _, rfl⟩ := hu
      · exact hinv'
      · exact machineInv_completeCommand sent (hfsm ▸ hb) hinv'
    | false =>
      have hi := (not_busy_iff _).1 hb
      cases hc : s.caller.chan with
      | word ch => simp [(hinv.channel.word_runs ch hc).1] at hb
      | mode w e1 => simp [(hinv.channel.mode_runs w e1 hc).1] at hb
      | modePending w e1 =>
        obtain ⟨hfsm, hchan, hres⟩ := step_modePending hi hc hr h
        refine ⟨hfsm ▸ fsmInv_accept _ _ _ _, ?_, busInv_of_begin (by simp [hfsm]) (by simp [hchan])⟩
        constructor <;> simp [hchan, hfsm, hres, hinv.channel.no_result, hc]
      | idle =>
        obtain ⟨len2, a, c, hfsm, ⟨hchan, _⟩ | ⟨ch, rfl, rfl, rfl, hchan, hres⟩⟩ | ⟨hfsm, hlog, hchan, _⟩ :=
          step_portFree ((portFree_iff s).2 ⟨hi, hc⟩) hr h
        · exact ⟨hfsm ▸ fsmInv_accept _ _ _ _, channelInv_of_idle hchan,
            busInv_of_begin (by simp [hfsm]) (by simp [hchan])⟩
        · refine ⟨hfsm ▸ fsmInv_accept _ _ _ _, ?_, busInv_of_begin (by simp [hfsm]) (by simp [hchan])⟩
          constructor <;> simp [hchan, hfsm, hres]
        · refine ⟨hfsm ▸ hinv.fsm, channelInv_of_idle hchan, ?_⟩
          have hrun := hinv.bus.log_run
          rw [← hfsm, ← hlog] at hrun
          exact ⟨by simp [hfsm, hi], by simp [hfsm, hi], by simp [hchan], hrun⟩

end Sys2Proof.Machine

namespace Sys2Proof.Machine

/-! ### Two runs that differ in the registers

The transport and the coming edges see no more of the registers than the state and the latches; the channel layer sees
more only where it takes the word of a request that has just ended. `step_setFsm` says so once for every step. -/

/-- The registers agree in what decides the commands and the order of the states: the state and the latches. -/
structure SameControl (r r' : Fsm) : Prop where
  state : r'.state = r.state
  addrR : r'.addrR = r.addrR
  cmdR : r'.cmdR = r.cmdR
  len2R : r'.len2R = r.len2R

/-- Two states after one edge: the transport and the coming edges are the same, and so is the caller, or each has
taken the word from its own registers, the request having just ended. -/
structure SameOutside (t u : State) : Prop where
  transport : u.transport = t.transport
  inputs : u.inputs = t.inputs
  caller : u.caller = t.caller ∨
    (t.fsm.busy = false ∧ ∃ c, t.caller = takeWord t.fsm c ∧ u.caller = takeWord u.fsm c)

theorem SameControl.busy {r r' : Fsm} (h : SameControl r r') : r'.busy = r.busy := by simp [Fsm.busy, h.state]

theorem SameControl.outstanding {r r' : Fsm} (h : SameControl r r') : outstanding r' = outstanding r := by
  simp [Machine.outstanding, h.state, h.addrR, h.cmdR, h.len2R]

theorem SameControl.accept (len2 : Bool) (a : DevAddr) (c : Byte) (r r' : Fsm) :
    SameControl (accept len2 a c r) (accept len2 a c r') := ⟨rfl, rfl, rfl, rfl⟩

theorem SameControl.advance_busy {r r' : Fsm} (k : Nat) (b : Byte) (h : SameControl r r') :
    (advance k b r').busy = (advance k b r).busy := by
  cases hs : r.state with
  | sIdle | sBegin | sWrite | sEnd | sReq | sRdHi => simp [advance, h.state, hs, Fsm.busy]
  | sRdLo => cases hl : r.len2R <;> simp [advance, h.state, hs, stepRdLo, h.len2R, hl, Fsm.busy]

theorem SameControl.portFree {s : State} {r : Fsm} (h : SameControl s.fsm r) : portFree (setFsm r s) = portFree s := by
  simp [Machine.portFree, Fsm.reqReady, h.busy]

theorem presentRequest_setFsm (len2 : Bool) (a : DevAddr) (c : Byte) {s : State} {r : Fsm} (hc : SameControl s.fsm r) :
    ∃ r', presentRequest len2 a c (setFsm r s) = setFsm r' (presentRequest len2 a c s) ∧
      SameControl (presentRequest len2 a c s).fsm r' := by
  unfold presentRequest
  rw [hc.portFree]
  split
  · exact ⟨_, rfl, .accept _ _ _ _ _⟩
  · exact ⟨r, rfl, hc⟩

theorem startChannel_setFsm (ch : Channel) {s : State} {r : Fsm} (hc : SameControl s.fsm r) :
    ∃ r', startChannel ch (setFsm r s) = setFsm r' (startChannel ch s) ∧ SameControl (startChannel ch s).fsm r' := by
  unfold startChannel
  rw [hc.portFree]
  split
  · exact ⟨_, rfl, .accept _ _ _ _ _⟩
  · exact ⟨r, rfl, hc⟩

/-- An operation looks at the registers only to see whether the port is free. -/
theorem exec_setFsm {i : Instr} {s t : State} {r : Fsm} (hc : SameControl s.fsm r) (h : exec i s = .next t) :
    ∃ r', exec i (setFsm r s) = .next (setFsm r' t) ∧ SameControl t.fsm r' := by
  cases i <;> cases h
  case req1 | req2 =>
    obtain ⟨r', hr', hc'⟩ := presentRequest_setFsm _ _ _ hc
    exact ⟨r', congrArg _ hr', hc'⟩
  case dec11 | dec16 => exact ⟨r, rfl, hc⟩
  all_goals
    obtain ⟨r', hr', hc'⟩ := startChannel_setFsm _ hc
    exact ⟨r', congrArg _ hr', hc'⟩

theorem completeCommand_setFsm (sent : List Byte) {t : State} {r : Fsm} (hc : SameControl t.fsm r) :
    SameOutside (completeCommand sent t) (completeCommand sent (setFsm r t)) := by
  refine ⟨by simp [hc.outstanding], rfl, ?_⟩
  simp only [completeCommand_caller, completeCommand_fsm, setFsm_fsm, setFsm_transport, setFsm_caller, hc.busy,
    hc.advance_busy]
  split
  · next hend =>
      obtain ⟨_, hidle⟩ := (Bool.and_eq_true_iff).1 hend
      exact .inr ⟨by simpa using hidle, _, rfl, rfl⟩
  · exact .inl rfl

theorem lateCompletion_setFsm (e : Edge) (r : Fsm) (t : State) :
    lateCompletion e (setFsm r t) = setFsm r (lateCompletion e t) := by
  unfold lateCompletion
  split <;> rfl

theorem presentMode_setFsm {t : State} {r : Fsm} (hc : SameControl t.fsm r) :
    SameOutside (presentMode t) (presentMode (setFsm r t)) := by
  cases hchan : t.caller.chan with
  | idle | word | mode => constructor <;> simp [presentMode_other, hchan]
  | modePending w e1 => cases hb : t.fsm.busy <;> constructor <;> simp [presentMode, hchan, Fsm.reqReady, hc.busy, hb]

theorem closeEdge_setFsm (e : Edge) {b b' t : State} {r : Fsm} (hb : b'.fsm.busy = b.fsm.busy)
    (hc : SameControl t.fsm r) : SameOutside (closeEdge e b t) (closeEdge e b' (setFsm r t)) := by
  cases hbusy : b.fsm.busy with
  | true =>
    rw [hbusy] at hb
    cases hd : e.done with
    | none =>
      rw [closeEdge_waits hbusy hd, closeEdge_waits hb hd]
      exact ⟨rfl, rfl, .inl rfl⟩
    | some sent =>
      rw [closeEdge_busy hbusy hd, closeEdge_busy hb hd]
      exact completeCommand_setFsm sent hc
  | false =>
    rw [closeEdge_idle hbusy, closeEdge_idle (hb.trans hbusy), lateCompletion_setFsm]
    exact presentMode_setFsm (by simpa using hc)

theorem resetEdge_setFsm (e : Edge) {s : State} {r : Fsm} (hc : SameControl s.fsm r) :
    resetEdge e (setFsm r s) = resetEdge e s := by
  have hcomplete : completeUnderReset e (setFsm r s) = setFsm r (completeUnderReset e s) := by
    unfold completeUnderReset
    rw [setFsm_fsm, hc.outstanding]
    split
    · rfl
    · exact lateCompletion_setFsm e r s
    · rfl
  have hblock : resetBlock e (setFsm r (completeUnderReset e s)) = resetBlock e (completeUnderReset e s) := by
    have hopen : leavesOpen e r = leavesOpen e (completeUnderReset e s).fsm := by
      simp [leavesOpen, hc.state]
    rw [resetBlock, abandonBus, setFsm_fsm, hopen]
    rfl
  rw [resetEdge, resetEdge, hcomplete, hblock]

theorem driven_outside_setFsm (e : Edge) (r : Fsm) (s : State) :
    driven e (outsideEffect e.outside (dropEdge (setFsm r s))) =
      setFsm r (driven e (outsideEffect e.outside (dropEdge s))) := by
  cases e.outside <;> rfl

theorem SameOutside.refl (t : State) : SameOutside t t := ⟨rfl, rfl, .inl rfl⟩

/-- A step from the same state with other registers, the state and the latches alike. -/
theorem step_setFsm {s t : State} {r : Fsm} (hc : SameControl s.fsm r) (h : step s = .next t) :
    ∃ u, step (setFsm r s) = .next u ∧ SameOutside t u := by
  have hn : nextEdge (setFsm r s) = nextEdge s := rfl
  obtain ⟨hr, rfl⟩ | ⟨hr, hi, v, rfl, hv⟩ := step_cases h
  · have hsame : resetEdge (nextEdge s) (driven (nextEdge s) (dropEdge (setFsm r s))) =
        resetEdge (nextEdge s) (driven (nextEdge s) (dropEdge s)) :=
      resetEdge_setFsm (s := driven (nextEdge s) (dropEdge s)) _ hc
    exact ⟨_, (step_reset (hn ▸ hr)).trans (by rw [hn, hsame]), .refl _⟩
  · have hi' : interleaved (nextEdge (setFsm r s)) (setFsm r s) = false := by
      simpa [interleaved, hc.busy, hn] using hi
    have hclose {v : State} {r' : Fsm} (hc' : SameControl v.fsm r') : SameOutside (closeEdge (nextEdge s) (dropEdge s) v)
        (closeEdge (nextEdge s) (dropEdge (setFsm r s)) (setFsm r' v)) := closeEdge_setFsm _ hc.busy hc'
    rw [step_edge (hn ▸ hr) hi', hn, driven_outside_setFsm]
    obtain ⟨hq, rfl⟩ | ⟨q, i, hq, hd, he⟩ := hv
    · exact ⟨_, by simp [hq, andThen], hclose (r' := r) (by simpa using hc)⟩
    · obtain ⟨r', he', hc'⟩ := exec_setFsm (r := r) (by simpa using hc) he
      exact ⟨_, by simp [hq, runBundles_cons [] hd he', andThen], hclose hc'⟩

/-! ### A request forgets the word that stood before it -/

/-- A request runs and none of its bytes has been written: `RAW_WORD` still holds an earlier word (R20, R116). -/
def awaitsFirstByte (r : Fsm) : Prop :=
  r.done = false ∧ (r.state = .sBegin ∨ r.state = .sWrite ∨ r.state = .sEnd ∨ r.state = .sReq ∨ r.state = .sRdLo)

theorem awaitsFirstByte_accept (len2 : Bool) (a : DevAddr) (c : Byte) (r : Fsm) :
    awaitsFirstByte (accept len2 a c r) := by
  simp [awaitsFirstByte]

theorem awaitsFirstByte_busy {r : Fsm} (h : awaitsFirstByte r) : r.busy = true := by
  obtain ⟨_, h | h | h | h | h⟩ := h <;> simp [Fsm.busy, h]

/-- At one clock edge the registers of such a request carry the earlier word along, or no longer depend on it. -/
theorem clockEdge_rawWord (p : PortIn) {r : Fsm} (w : Word) (h : awaitsFirstByte r) :
    clockEdge p { r with rawWord := w } = clockEdge p r ∨
      (awaitsFirstByte (clockEdge p r) ∧ clockEdge p { r with rawWord := w } = { clockEdge p r with rawWord := w }) := by
  cases hr : p.rst with
  | true => exact .inl (by rw [clockEdge_reset _ hr, clockEdge_reset _ hr])
  | false =>
    cases hd : p.tDone with
    | false =>
      have hb := awaitsFirstByte_busy h
      have hstay : clockEdge p r = r := clockEdge_waits hr hb hd
      rw [hstay]
      exact .inr ⟨h, clockEdge_waits hr hb hd⟩
    | true =>
      obtain ⟨hdone, hs | hs | hs | hs | hs⟩ := h
      case inr.inr.inr.inr => exact .inl (by simp [clockEdge, hr, hd, hs])
      all_goals exact .inr ⟨by simp [awaitsFirstByte, clockEdge, hr, hd, hs, hdone], by simp [clockEdge, hr, hd, hs]⟩

/-- Two states that agree, but for an earlier word in the registers of a request that awaits its first byte. -/
def AgreeButEarlierWord (s₁ s₂ : State) : Prop :=
  s₂ = s₁ ∨ (awaitsFirstByte s₁.fsm ∧ ∃ w, s₂ = setFsm { s₁.fsm with rawWord := w } s₁)

theorem setFsm_eq_of_fields {t u : State} {r : Fsm} (hf : u.fsm = r) (ht : u.transport = t.transport)
    (hc : u.caller = t.caller) (hi : u.inputs = t.inputs) : u = setFsm r t := by
  cases u
  cases t
  simp_all [setFsm]

theorem step_agreeButEarlierWord {s₁ s₂ t₁ : State} (ha : AgreeButEarlierWord s₁ s₂) (h : step s₁ = .next t₁) :
    ∃ t₂, step s₂ = .next t₂ ∧ AgreeButEarlierWord t₁ t₂ := by
  obtain rfl | ⟨hwait, w, rfl⟩ := ha
  · exact ⟨t₁, h, .inl rfl⟩
  · obtain ⟨t₂, h₂, hout⟩ := step_setFsm (r := { s₁.fsm with rawWord := w }) ⟨rfl, rfl, rfl, rfl⟩ h
    have hfsm₁ := everyStepIsOneClockEdge _ _ h
    have hfsm₂ : t₂.fsm = clockEdge (pinsOf (nextEdge s₁) s₁) { s₁.fsm with rawWord := w } :=
      everyStepIsOneClockEdge _ _ h₂
    refine ⟨t₂, h₂, ?_⟩
    obtain hsame | ⟨hwait', hcarry⟩ := clockEdge_rawWord (pinsOf (nextEdge s₁) s₁) w hwait
    · have hfsm : t₂.fsm = t₁.fsm := by rw [hfsm₂, hsame, hfsm₁]
      have hcaller : t₂.caller = t₁.caller := by
        obtain hcaller | ⟨_, c, hc₁, hc₂⟩ := hout.caller
        · exact hcaller
        · rw [hc₂, hfsm, hc₁]
      exact .inl (setFsm_eq_of_fields hfsm hout.transport hcaller hout.inputs)
    · rw [← hfsm₁] at hwait' hcarry
      have hcaller : t₂.caller = t₁.caller := by
        obtain hcaller | ⟨hidle, _⟩ := hout.caller
        · exact hcaller
        · simp [awaitsFirstByte_busy hwait'] at hidle
      exact .inr ⟨hwait', w, setFsm_eq_of_fields (hfsm₂.trans hcarry) hout.transport hcaller hout.inputs⟩

theorem reaches_agreeButEarlierWord {k : Nat} {s₁ s₂ t₁ : State} (ha : AgreeButEarlierWord s₁ s₂)
    (h : Reaches k s₁ t₁) : ∃ t₂, Reaches k s₂ t₂ ∧ AgreeButEarlierWord t₁ t₂ := by
  induction k generalizing s₁ s₂ with
  | zero =>
    cases h
    exact ⟨s₂, rfl, ha⟩
  | succ k ih =>
    obtain ⟨s₁', h₁, hk⟩ := h
    obtain ⟨s₂', h₂, ha'⟩ := step_agreeButEarlierWord ha h₁
    obtain ⟨t₂, hk₂, ha₂⟩ := ih ha' hk
    exact ⟨t₂, (reaches_succ h₂).2 hk₂, ha₂⟩

/-- Settles O30: acceptance leaves only the earlier word to differ, and every step keeps that or overwrites the word. -/
theorem requestIgnoresEarlierResults : Obligations.RequestIgnoresEarlierResults := by
  unfold Obligations.RequestIgnoresEarlierResults
  intro s₁ s₂ len2 a c t₁ t₂ hp₁ hp₂ ht hc hi h₁ h₂ k u₁ hk
  have hs₂ : s₂ = setFsm s₂.fsm s₁ := setFsm_eq_of_fields rfl ht.symm hc.symm hi.symm
  rw [exec_request_free len2 a c hp₁] at h₁
  rw [exec_request_free len2 a c hp₂, hs₂] at h₂
  cases h₁
  cases h₂
  have hstart : AgreeButEarlierWord (acceptRequest len2 a c (clearLog s₁))
      (acceptRequest len2 a c (clearLog (setFsm s₂.fsm s₁))) :=
    .inr ⟨awaitsFirstByte_accept len2 a c s₁.fsm, s₂.fsm.rawWord, rfl⟩
  obtain ⟨u₂, hk₂, rfl | ⟨⟨hdone, _⟩, w, rfl⟩⟩ := reaches_agreeButEarlierWord hstart hk
  · exact ⟨u₂, hk₂, rfl, rfl, rfl, fun _ => rfl⟩
  · exact ⟨_, hk₂, rfl, rfl, rfl, by simp [hdone]⟩

end Sys2Proof.Machine

namespace Sys2Proof.Machine

/-! ### Who writes which register

Each statement is read off the four moves of the registers (`step_fsmMove`) and what a completion writes. -/

/-- Settles O17: the codes and the commands by the states; the order by the move of the registers, a completion going
where `advance_order` says. -/
theorem statesFollowTheFixedOrder : Obligations.StatesFollowTheFixedOrder := by
  unfold Obligations.StatesFollowTheFixedOrder
  refine ⟨rfl, ?_, ?_, ?_⟩
  · intro st
    cases st <;> decide
  · intro r
    cases hs : r.state <;> simp [outstanding, hs]
  · intro s t h hr
    have hm := step_fsmMove h
    generalize t.fsm = r at hm
    cases hm with
    | resets hr' => simp [hr] at hr'
    | stays => exact ⟨fun _ hne => absurd rfl hne, .inl rfl⟩
    | accepts _ hi => exact ⟨fun hne => absurd hi hne, .inr (.inl (by simp [hi]))⟩
    | completes _ hb sent hd =>
      refine ⟨fun _ _ => by simp [hd], .inr ?_⟩
      obtain ⟨hs, hn⟩ | ⟨hs, hn⟩ | ⟨hs, hn⟩ | ⟨hs, hn⟩ | hrest := advance_order sent.length (readAnswer s.transport) hb
      case inr.inr.inr.inr => exact .inr hrest
      all_goals exact .inl (by simp [hs, hn])

/-- Settles O18: only an acceptance moves the latches. -/
theorem latchesChangeOnlyAtAcceptance : Obligations.LatchesChangeOnlyAtAcceptance := by
  unfold Obligations.LatchesChangeOnlyAtAcceptance
  intro s t h hr
  have hm := step_fsmMove h
  generalize t.fsm = r at hm
  cases hm with
  | resets hr' => simp [hr] at hr'
  | stays => exact .inl ⟨rfl, rfl, rfl⟩
  | accepts _ hi q hq => exact .inr ⟨hi, rfl, q, hq, rfl, rfl, rfl⟩
  | completes _ _ sent => exact .inl (advance_latches _ _ _)

/-- A completion writes `ERR` in `S_REQ` only (R27, R121). -/
theorem advance_err (k : Nat) (b : Byte) {r : Fsm} (h : r.state ≠ .sReq) : (advance k b r).err = r.err := by
  cases hs : r.state with
  | sReq => exact absurd hs h
  | sIdle | sBegin | sWrite | sEnd | sRdHi => simp [advance, hs]
  | sRdLo => cases hl : r.len2R <;> simp [advance, hs, stepRdLo, hl]

/-- No row of the port-level machine reads `ERR`. -/
theorem clockEdge_err (p : PortIn) (r : Fsm) (x : Bool) :
    { clockEdge p { r with err := x } with err := false } = { clockEdge p r with err := false } := by
  cases hr : p.rst with
  | true => rw [clockEdge_reset _ hr, clockEdge_reset _ hr]
  | false =>
    cases hs : r.state with
    | sIdle => cases hv : p.reqValid <;> simp [clockEdge, hr, hs, hv]
    | sBegin | sWrite | sEnd | sReq | sRdHi => cases hd : p.tDone <;> simp [clockEdge, hr, hs, hd]
    | sRdLo => cases hd : p.tDone <;> cases hl : r.len2R <;> simp [clockEdge, hr, hs, hd, hl]

/-- The decoded word that the layer delivers depends on `RAW_WORD` alone. -/
theorem takeWord_result_q {r r' : Fsm} (c : Caller) (h : r'.rawWord = r.rawWord) :
    (takeWord r' c).result.map (·.q) = (takeWord r c).result.map (·.q) := by
  cases hc : c.chan with
  | idle | modePending | mode => simp [takeWord, hc, h]
  | word ch => cases ch <;> simp [takeWord, hc, h]

/-- Settles O19: the writers of `ERR` are read off the moves of the registers; a step from a state with another `ERR`
is a step from one with the same control (`step_setFsm`), whose registers come out of the same clock edge. -/
theorem errIsWrittenOnceAndNeverRead : Obligations.ErrIsWrittenOnceAndNeverRead := by
  unfold Obligations.ErrIsWrittenOnceAndNeverRead
  constructor
  · intro s t h herr
    have hm := step_fsmMove h
    generalize t.fsm = r at hm herr ⊢
    cases hm with
    | resets hr => exact .inl hr
    | stays => exact absurd rfl herr
    | accepts _ hi => exact .inr (.inl ⟨hi, rfl, rfl⟩)
    | completes _ _ sent hd =>
      have hs : s.fsm.state = .sReq := by
        by_contra hs
        exact herr (advance_err _ _ hs)
      exact .inr (.inr ⟨hs, sent, hd, by rw [advance_req _ _ hs, stepReq_err, incomplete]⟩)
  · intro s t x h
    obtain ⟨u, hu, hout⟩ := step_setFsm (r := { s.fsm with err := x }) ⟨rfl, rfl, rfl, rfl⟩ h
    have hfsm : { u.fsm with err := false } = { t.fsm with err := false } := by
      rw [everyStepIsOneClockEdge _ _ h, everyStepIsOneClockEdge _ _ hu]
      exact clockEdge_err _ _ x
    refine ⟨u, hu, hfsm, hout.transport, ?_⟩
    obtain hcaller | ⟨_, c, hc₁, hc₂⟩ := hout.caller
    · rw [hcaller]
    · rw [hc₁, hc₂]
      have hraw : ({ u.fsm with err := false } : Fsm).rawWord = ({ t.fsm with err := false } : Fsm).rawWord := by rw [hfsm]
      exact takeWord_result_q c hraw

/-- Settles O20: of the moves of the registers, only a completion that ends the request sets `DONE`, and none clears
it. -/
theorem doneIsSetByTheCompletingStep : Obligations.DoneIsSetByTheCompletingStep := by
  unfold Obligations.DoneIsSetByTheCompletingStep
  intro s t h
  have hm := step_fsmMove h
  generalize t.fsm = r at hm ⊢
  cases hm with
  | resets hr => exact ⟨fun _ hset => absurd hset (by decide), fun _ _ => .inl hr⟩
  | stays => exact ⟨fun h0 h1 => by simp [h0] at h1, fun h1 h0 => by simp [h1] at h0⟩
  | accepts _ hi => exact ⟨fun _ hset => absurd hset (by simp), fun _ _ => .inr ⟨hi, rfl⟩⟩
  | completes hr hb sent =>
    obtain ⟨_, hsame⟩ | ⟨hidle, hdone, hlast⟩ := advance_ends_or_goes_on sent.length (readAnswer s.transport) hb
    · rw [hsame]
      exact ⟨fun h0 h1 => by simp [h0] at h1, fun h1 h0 => by simp [h1] at h0⟩
    · exact ⟨fun _ _ => ⟨hr, hidle, hlast⟩, fun _ hclear => by simp [hdone] at hclear⟩

/-- With no pseudo-operation in progress a completion leaves the caller alone. -/
theorem completeCommand_caller_idle {s : State} (sent : List Byte) (h : s.caller.chan = .idle) :
    (completeCommand sent s).caller = s.caller := by
  rw [completeCommand_caller]
  split
  · simp [takeWord, h]
  · rfl

/-- Settles O21: the registers by their moves in `S_IDLE`; the delivered result by the kind of edge, a free port being
the one place where a pseudo-operation is accepted. -/
theorem resultHoldsUntilNextAcceptance : Obligations.ResultHoldsUntilNextAcceptance := by
  unfold Obligations.ResultHoldsUntilNextAcceptance
  constructor
  · intro s t h hr hi _
    have hm := step_fsmMove h
    generalize t.fsm = r at hm ⊢
    cases hm with
    | resets hr' => simp [hr] at hr'
    | stays => exact .inl rfl
    | accepts => exact .inr ⟨rfl, rfl⟩
    | completes _ hb => exact absurd hi ((busy_iff _).1 hb)
  · intro s t h hc
    cases hr : (nextEdge s).rst with
    | true =>
      rw [step_reset hr] at h
      cases h
      exact .inl (by simp)
    | false =>
      cases hb : s.fsm.busy with
      | true =>
        obtain ⟨u, _, _, _, hchan, hres, ⟨_, rfl⟩ | ⟨sent, _, rfl⟩⟩ := step_busy hb hr h
        · exact .inl ⟨hchan.trans hc, hres⟩
        · rw [completeCommand_caller_idle sent (hchan.trans hc)]
          exact .inl ⟨hchan.trans hc, hres⟩
      | false =>
        have hi := (not_busy_iff _).1 hb
        obtain ⟨_, _, _, hfsm, hkept | ⟨ch, _, _, _, hchan, hres⟩⟩ | ⟨_, _, hkept⟩ :=
          step_portFree ((portFree_iff s).2 ⟨hi, hc⟩) hr h
        · exact .inl hkept
        · exact .inr ⟨hi, by simp [hfsm], hres, ch, hchan⟩
        · exact .inl hkept

/-- Settles O22: of the moves of the registers, only an acceptance raises `BUSY`; a reset or a completion that sets
`DONE` lowers it. -/
theorem busyFromAcceptanceToCompletion : Obligations.BusyFromAcceptanceToCompletion := by
  unfold Obligations.BusyFromAcceptanceToCompletion
  intro s t h
  have hm := step_fsmMove h
  generalize t.fsm = r at hm ⊢
  cases hm with
  | resets hr => exact ⟨fun _ hrise => by simp at hrise, fun _ _ => .inl hr⟩
  | stays => exact ⟨fun h0 h1 => by simp [h0] at h1, fun h1 h0 => by simp [h1] at h0⟩
  | accepts _ _ q hq => exact ⟨fun _ _ => ⟨rfl, by simp [hq]⟩, fun _ hfall => by simp at hfall⟩
  | completes _ hb sent =>
    refine ⟨fun h0 => by simp [hb] at h0, fun _ hfall => .inr ?_⟩
    obtain ⟨hgo, _⟩ | ⟨_, hdone, _⟩ := advance_ends_or_goes_on sent.length (readAnswer s.transport) hb
    · simp [hgo] at hfall
    · exact hdone

/-! ### The reset state and what an operation leaves unchanged -/

theorem resetEdge_rx {e : Edge} (s : State) (hq : e.outside = .quiet) (hd : e.done = none) :
    (resetEdge e s).transport.rx = s.transport.rx := by
  rw [resetEdge, hq, outsideEffect_quiet, completeUnderReset_none s hd, resetBlock, setCaller_transport,
    setTransport_transport, abandonBus]
  split <;> rfl

/-- Settles O1: the reset edge sets the registers outright and passes the decoders' inputs on. -/
theorem resetGivesEveryRegisterItsValue : Obligations.ResetGivesEveryRegisterItsValue := by
  unfold Obligations.ResetGivesEveryRegisterItsValue
  refine ⟨rfl, fun s hr => ⟨_, step_reset hr, ?_⟩⟩
  rw [resetEdge_fsm]
  refine ⟨rfl, rfl, rfl, rfl, ?_, ?_, ?_, ?_⟩
  · simp [State.l11Q, driven, drivenCaller]
  · intro xw hxw
    simp [State.l16Q, driven, drivenCaller, hxw]
  · intro hnone
    simp [State.l16Q, driven, drivenCaller, hnone]
  · intro hq hd
    simp [resetEdge_rx _ hq hd]

/-- Settles O24: the base case of O23, by the lemma for every reset state. -/
theorem invariantHoldsAtReset : Obligations.InvariantHoldsAtReset := machineInv_reset rfl rfl

/-- Settles O37: a decode is one write of a decoder's input. -/
theorem decodeFrame : Obligations.DecodeFrame := by
  unfold Obligations.DecodeFrame
  intro s t
  constructor
  · intro w h
    cases h
    exact ⟨rfl, rfl, rfl, rfl, rfl⟩
  · intro w x h
    cases h
    exact ⟨rfl, rfl, rfl, rfl, rfl⟩

/-- What every request leaves alone: the received word, the decoders' inputs, and of the transport all but the bus and
the record. -/
structure RequestKeeps (s t : State) : Prop where
  rawWord : t.fsm.rawWord = s.fsm.rawWord
  l11Word : t.caller.l11Word = s.caller.l11Word
  l16Word : t.caller.l16Word = s.caller.l16Word
  l16Exp : t.caller.l16Exp = s.caller.l16Exp
  rx : t.transport.rx = s.transport.rx
  draws : t.transport.draws = s.transport.draws
  ready : t.transport.ready = s.transport.ready
  inputs : t.inputs = s.inputs

theorem presentRequest_keeps (len2 : Bool) (a : DevAddr) (c : Byte) (s : State) :
    RequestKeeps s (presentRequest len2 a c s) ∧ (presentRequest len2 a c s).caller = s.caller := by
  unfold presentRequest
  split <;> exact ⟨⟨rfl, rfl, rfl, rfl, rfl, rfl, rfl, rfl⟩, rfl⟩

theorem startChannel_keeps (ch : Channel) (s : State) : RequestKeeps s (startChannel ch s) := by
  unfold startChannel
  split <;> exact ⟨rfl, rfl, rfl, rfl, rfl, rfl, rfl, rfl⟩

/-- Settles O52: a request is presented or a channel started, and each keeps all this. -/
theorem requestFrame : Obligations.RequestFrame := by
  unfold Obligations.RequestFrame
  intro s t a c i hi h
  have key : RequestKeeps s t ∧ (i = .req1 a c ∨ i = .req2 a c → t.caller = s.caller) := by
    simp only [List.mem_cons, List.not_mem_nil, or_false] at hi
    obtain rfl | rfl | hchannel := hi
    case inl | inr.inl =>
      cases h
      obtain ⟨hkeeps, hcaller⟩ := presentRequest_keeps _ a c s
      exact ⟨hkeeps, fun _ => hcaller⟩
    · obtain rfl | rfl | rfl | rfl | rfl := hchannel <;> cases h <;> exact ⟨startChannel_keeps _ s, by simp⟩
  obtain ⟨⟨hraw, h11, h16, hexp, hrx, hdraws, hready, hin⟩, hcaller⟩ := key
  exact ⟨hraw, h11, h16, hexp, hrx, hdraws, hready, hin, hcaller⟩

end Sys2Proof.Machine

namespace Sys2Proof.Machine

/-! ### Every word is the answer of some transport -/

theorem answers_requestCompletions (len2 : Bool) (sent : List Byte) :
    answers (requestCompletions len2 sent) = [[], [], [], sent, []] ++ (if len2 then [[]] else []) := by
  cases len2 <;> rfl

/-- The completions of a request, one at every edge, are a schedule, whatever the device sends (R113). -/
theorem schedule_requestCompletions (len2 : Bool) (sent : List Byte) :
    Schedule (4 + expectedLen len2) (requestCompletions len2 sent) := by
  have horderly (x : List Byte) : (completing x).rst = false ∧ (completing x).outside = .quiet ∧
      opDecodes (completing x) = true := ⟨rfl, rfl, rfl⟩
  cases len2 <;> exact ⟨by simp [requestCompletions, horderly], by rw [answers_requestCompletions]; rfl, rfl⟩

/-- The bytes of a word as a device sends them: the low one first (R53). -/
def wordBytes (w : Word) : List Byte := [w.extractLsb' 0 8, w.extractLsb' 8 8]

/-- A two-byte request answered with a word's bytes ends with that word, whatever a draw would give (R115). -/
theorem resultWord_wordBytes (w : Word) (d : Nat) : resultWord true (wordBytes w) d = w :=
  calc resultWord true (wordBytes w) d
    _ = w.extractLsb' 8 8 ++ w.extractLsb' 0 8 := rfl
    _ = w.extractLsb' 0 16 := BitVec.extractLsb'_append_extractLsb'_eq_extractLsb' rfl
    _ = w := BitVec.extractLsb'_eq_self

/-- Settles O29: the transport completes a command at every edge and the device sends the word's two bytes; the run is
`requestRunsInAnySchedule`'s. -/
theorem everyWordCanBeDelivered : Obligations.EveryWordCanBeDelivered := by
  unfold Obligations.EveryWordCanBeDelivered
  intro s a c w hfree
  obtain ⟨t, u, hexec, hreach, hfsm, -, -⟩ :=
    requestRunsInAnySchedule { s with inputs := requestCompletions true (wordBytes w) } true a c _ [] hfree
      (List.append_nil _).symm (schedule_requestCompletions true (wordBytes w))
  have hsent : (answers (requestCompletions true (wordBytes w))).getD 3 [] = wordBytes w := by
    rw [answers_requestCompletions]
    rfl
  rw [hsent, resultWord_wordBytes] at hfsm
  exact ⟨_, t, u, hexec, hreach, by simp [hfsm], by simp [hfsm, wordBytes, expectedLen], by simp [hfsm]⟩

end Sys2Proof.Machine

namespace Sys2Proof

/-! ### The decoder and the encoder of operand bundles

The nine encodings come down to two facts: a descriptor is its three fields (Laws/Fields), and a channel's pattern
fixes two of them, `LEN2` and `C` (`channelOf_eq_some_iff`). -/

theorem rqDescriptor_inj {l l' : Bool} {a a' : DevAddr} {c c' : Byte} (h : rqDescriptor l a c = rqDescriptor l' a' c') :
    l = l' ∧ a = a' ∧ c = c' :=
  ⟨by simpa using congrArg rqLen2 h, by simpa using congrArg rqAddr h, by simpa using congrArg rqCmd h⟩

/-- The mask of the channels' patterns keeps `LEN2` and `C` and clears `A` (R89). -/
theorem rqDescriptor_and_mask (l : Bool) (a : DevAddr) (c : Byte) : rqDescriptor l a c &&& 0x80FF = rqDescriptor l 0 c := by
  have hmask : (0x80FF : Word) = rqDescriptor true 0 (BitVec.allOnes 8) := by decide
  have hl : BitVec.ofBool l &&& BitVec.ofBool true = BitVec.ofBool l := by
    cases l <;> decide
  calc rqDescriptor l a c &&& 0x80FF
    _ = (BitVec.ofBool l ++ a ++ c) &&& (BitVec.ofBool true ++ (0 : DevAddr) ++ BitVec.allOnes 8) := by
      rw [hmask]
      rfl
    _ = (BitVec.ofBool l &&& BitVec.ofBool true) ++ (a &&& 0) ++ (c &&& BitVec.allOnes 8) := by
      rw [BitVec.and_append, BitVec.and_append]
    _ = rqDescriptor l 0 c := by
      rw [hl, show a &&& 0 = 0 from BitVec.and_zero, BitVec.and_allOnes]
      rfl

/-- `channelOf` is the table's pattern, read with the command of R191. -/
theorem channelOf_eq_some_iff_pattern {d : Word} {ch : Channel} :
    channelOf d = some ch ↔ d &&& 0x80FF = rqDescriptor true 0 ch.command := by
  constructor
  · intro h
    unfold channelOf at h
    split_ifs at h with hd hd hd hd hd <;> cases h <;> exact hd
  · intro h
    rw [channelOf, h]
    cases ch <;> decide

/-- A channel's pattern fixes the length bit and the command and leaves the address open (R89, R191). -/
theorem channelOf_eq_some_iff {d : Word} {ch : Channel} :
    channelOf d = some ch ↔ rqLen2 d = true ∧ rqCmd d = ch.command := by
  rw [channelOf_eq_some_iff_pattern]
  conv_lhs => rw [← rqDescriptor_fields d, rqDescriptor_and_mask]
  constructor
  · intro h
    obtain ⟨hl, _, hc⟩ := rqDescriptor_inj h
    exact ⟨hl, hc⟩
  · rintro ⟨hl, hc⟩
    rw [hl, hc]

theorem channelOf_descriptor (a : DevAddr) (ch : Channel) : channelOf (rqDescriptor true a ch.command) = some ch :=
  channelOf_eq_some_iff.2 ⟨rqLen2_descriptor _ _ _, rqCmd_descriptor _ _ _⟩

theorem decode_rq_one {d : Word} (h : rqLen2 d = false) : decode (.rq d) = .ok (.req1 (rqAddr d) (rqCmd d)) := by
  simp [decode, h]

theorem decode_rq_two {d : Word} (h : rqLen2 d = true) : decode (.rq d) = .ok (.req2 (rqAddr d) (rqCmd d)) := by
  simp [decode, h]

theorem decode_channel_ok_iff {d : Word} {i : Instr} :
    decode (.channel d) = .ok i ↔ ∃ ch, channelOf d = some ch ∧ i = ch.instr := by
  cases h : channelOf d <;> simp [decode, h, eq_comm]

theorem decode_error_iff {b : Bundle} {r : Reject} :
    decode b = .error r ↔ ∃ d, b = .channel d ∧ channelOf d = none ∧ r = .notAChannel d := by
  cases b with
  | rq | l11 | l16 => simp [decode]
  | channel d => cases h : channelOf d <;> simp [decode, h, eq_comm]

theorem encode_channel (ch : Channel) : encode ch.instr = .channel (rqDescriptor true Config.devAddr ch.command) := by
  cases ch <;> rfl

theorem decode_encode_channel (ch : Channel) : decode (encode ch.instr) = .ok ch.instr := by
  rw [encode_channel, decode_channel_ok_iff]
  exact ⟨ch, channelOf_descriptor _ ch, rfl⟩

/-- A pseudo-operation's descriptor tells its channel. -/
theorem Channel.instr_inj {ch ch' : Channel} (h : ch.instr = ch'.instr) : ch = ch' := by
  have hd := congrArg encode h
  rw [encode_channel, encode_channel, Bundle.channel.injEq] at hd
  have hch := congrArg channelOf hd
  rw [channelOf_descriptor, channelOf_descriptor] at hch
  exact Option.some.inj hch

/-- The two fields of a Linear16 bundle (R83). -/
theorem decode_l16_append (x : RawExp) (w : Word) : decode (.l16 (x ++ w)) = .ok (.dec16 w x) := by
  simp only [decode]
  rw [BitVec.extractLsb'_append_eq_right, BitVec.extractLsb'_append_eq_left]

/-- A Linear16 bundle is made of its two fields (R83). -/
theorem l16_fields (xw : BitVec 21) : xw.extractLsb' 16 5 ++ xw.extractLsb' 0 16 = xw :=
  (BitVec.extractLsb'_append_extractLsb'_eq_extractLsb' rfl).trans BitVec.extractLsb'_eq_self

theorem decode_encode (i : Instr) : decode (encode i) = .ok i := by
  cases i with
  | req1 a c | req2 a c => simp [encode, decode]
  | dec11 w => rfl
  | dec16 w x => exact decode_l16_append x w
  | vin => exact decode_encode_channel .vin
  | vout => exact decode_encode_channel .vout
  | temp => exact decode_encode_channel .temp
  | iout => exact decode_encode_channel .iout
  | pout => exact decode_encode_channel .pout

theorem instr_wf (i : Instr) : i.wf = true := by
  cases i <;> rfl

/-- Settles O53: well-formedness holds by the constructors, the round trip is `decode_encode`. -/
theorem decodeOfEncode : Obligations.DecodeOfEncode := fun i => ⟨instr_wf i, decode_encode i⟩

/-- Settles O54, by the port: each bundle is made of the fields its decoding reads. -/
theorem encodeOfDecode : Obligations.EncodeOfDecode := by
  unfold Obligations.EncodeOfDecode
  intro b i h haddr
  cases b with
  | rq d =>
    have hd := rqDescriptor_fields d
    cases hl : rqLen2 d with
    | false =>
      rw [decode_rq_one hl] at h
      cases h
      exact congrArg Bundle.rq (hl ▸ hd)
    | true =>
      rw [decode_rq_two hl] at h
      cases h
      exact congrArg Bundle.rq (hl ▸ hd)
  | l11 w =>
    cases h
    rfl
  | l16 xw =>
    cases h
    exact congrArg Bundle.l16 (l16_fields xw)
  | channel d =>
    obtain ⟨ch, hch, rfl⟩ := decode_channel_ok_iff.1 h
    obtain ⟨hl, hc⟩ := channelOf_eq_some_iff.1 hch
    rw [encode_channel, ← hc, ← hl, ← haddr d rfl, rqDescriptor_fields]

/-- Settles O55: on the request port bit 15 alone decides; a channel's pattern fixes that bit and the command. -/
theorem descriptorsSpellExactlyOneRequest : Obligations.DescriptorsSpellExactlyOneRequest := by
  unfold Obligations.DescriptorsSpellExactlyOneRequest
  refine ⟨fun d => ⟨decode_rq_one, decode_rq_two⟩, ?_, rfl, ?_⟩
  · intro d ch h
    obtain ⟨ch', hch, heq⟩ := decode_channel_ok_iff.1 h
    obtain rfl := Channel.instr_inj heq
    obtain ⟨hl, hc⟩ := channelOf_eq_some_iff.1 hch
    rw [decode_rq_two hl, hc, rqAddr]
  · rintro a rfl
    decide

/-- Settles O57: the decoder evaluated on closed words. -/
theorem writtenOutWordsDecode : Obligations.WrittenOutWordsDecode :=
  ⟨rfl, rfl, rfl, rfl, rfl, rfl, rfl, rfl, rfl, rfl⟩

/-! ### In front of the ports -/

/-- Raw bits of the port's width are the bundle on that port with those bits (R80). -/
theorem toBundle_fits {b : RawBundle} (h : b.nbits = b.port.width ∧ b.bits < 2 ^ b.nbits) :
    ∃ x, b.toBundle = .ok x ∧ x.port = b.port ∧ x.bits = b.bits := by
  obtain ⟨p, n, bits⟩ := b
  obtain ⟨rfl : n = p.width, hbits⟩ := h
  cases p <;> exact ⟨_, if_pos ⟨rfl, hbits⟩, rfl, Nat.mod_eq_of_lt hbits⟩

theorem toBundle_not_fits {b : RawBundle} (h : ¬ (b.nbits = b.port.width ∧ b.bits < 2 ^ b.nbits)) :
    b.toBundle = .error (.width b.nbits) := if_neg h

theorem RawBundle.wf_iff (b : RawBundle) :
    b.wf = true ↔ (b.nbits = b.port.width ∧ b.bits < 2 ^ b.nbits) ∧
      opcodeRows.any (·.admits b.port b.bits) = true := by
  simp only [RawBundle.wf, Bool.and_eq_true, beq_iff_eq, decide_eq_true_eq]

/-- A channel's row admits exactly the descriptors of that channel (R89). -/
theorem channel_row_admits_iff (ch : Channel) (d : Word) :
    ch.instr.row.admits .channel d.toNat = true ↔ channelOf d = some ch := by
  have hport : ch.instr.row.port = .channel := by cases ch <;> rfl
  have hmask : ch.instr.row.mask = (0x80FF : Word).toNat := by cases ch <;> rfl
  have hvalue : ch.instr.row.value = (rqDescriptor true 0 ch.command).toNat := by cases ch <;> rfl
  rw [channelOf_eq_some_iff_pattern, Row.admits, hport, hmask, hvalue, ← BitVec.toNat_and, ← BitVec.toNat_inj]
  simp

/-- The rows of the channel layer are the channels' rows (R89). -/
theorem rows_admit_channel_iff (d : Word) :
    opcodeRows.any (·.admits .channel d.toNat) = true ↔ ∃ ch, channelOf d = some ch := by
  have hany : opcodeRows.any (·.admits .channel d.toNat) =
      [Channel.vin, .vout, .temp, .iout, .pout].any (·.instr.row.admits .channel d.toNat) := rfl
  have hall (ch : Channel) : ch ∈ [Channel.vin, .vout, .temp, .iout, .pout] := by cases ch <;> decide
  simp only [hany, List.any_eq_true, channel_row_admits_iff, hall, true_and]

/-- Some row admits the bits of a bundle exactly when the decoder does (R89, R90). -/
theorem rows_admit_iff_decode (x : Bundle) :
    opcodeRows.any (·.admits x.port x.bits) = true ↔ ∃ i, decode x = .ok i := by
  cases x with
  | rq d =>
    have h := Laws.RowPattern.pattern_request (rqLen2 d) (rqAddr d) (rqCmd d)
    rw [rqDescriptor_fields] at h
    cases hl : rqLen2 d <;> simp [opcodeRows, Row.admits, Bundle.port, Bundle.bits, h, hl, decode]
  | l11 w => simp [opcodeRows, Row.admits, Bundle.port, decode]
  | l16 xw => simp [opcodeRows, Row.admits, Bundle.port, decode]
  | channel d =>
    simp only [Bundle.port, Bundle.bits, rows_admit_channel_iff, decode_channel_ok_iff]
    exact ⟨fun ⟨ch, h⟩ => ⟨_, ch, h, rfl⟩, fun ⟨_, ch, h, _⟩ => ⟨ch, h⟩⟩

theorem decodeRaw_ok_iff_wf (b : RawBundle) : (∃ i, decodeRaw b = .ok i) ↔ b.wf = true := by
  rw [RawBundle.wf_iff]
  by_cases hfits : b.nbits = b.port.width ∧ b.bits < 2 ^ b.nbits
  · obtain ⟨x, hx, hport, hbits⟩ := toBundle_fits hfits
    have hraw : decodeRaw b = decode x := by rw [decodeRaw, hx]
    rw [hraw, ← rows_admit_iff_decode, hport, hbits, and_iff_right hfits]
  · simp [decodeRaw, toBundle_not_fits hfits, hfits]

theorem decodeCall_ok_iff_wf (q : RequestCall) : (∃ i, decodeCall q = .ok i) ↔ q.wf = true := by
  by_cases ha : q.deviceAddress < 128
  · by_cases hc : q.command < 256
    · by_cases h1 : q.expectedLength = 1
      · simp [decodeCall, RequestCall.wf, ha, hc, h1]
      · by_cases h2 : q.expectedLength = 2 <;> simp [decodeCall, RequestCall.wf, ha, hc, h1, h2]
    · simp [decodeCall, RequestCall.wf, ha, hc]
  · simp [decodeCall, RequestCall.wf, ha]

/-- Settles O56: raw bits that fit are a bundle, which decodes when a row admits it; a call decodes by its three
numbers. -/
theorem onlyIllFormedIsRejected : Obligations.OnlyIllFormedIsRejected := by
  unfold Obligations.OnlyIllFormedIsRejected
  refine ⟨decodeRaw_ok_iff_wf, decodeCall_ok_iff_wf, ?_⟩
  intro q ha hc h1 h2
  simp [decodeCall, ha, hc, h1, h2]

end Sys2Proof

namespace Sys2Proof.Machine

/-! ### The mode byte -/

/-- The exponent read from a mode byte is its low five bits (R84, R94). -/
theorem modeRawExp_rawFirst (b : Byte) : modeRawExp (rawFirst b) = (b &&& 0x1F).extractLsb' 0 5 :=
  calc modeRawExp (rawFirst b)
    _ = b.extractLsb' 0 5 := BitVec.extractLsb'_setWidth_of_le (by decide)
    _ = b.extractLsb' 0 5 &&& BitVec.allOnes 5 := BitVec.and_allOnes.symm
    _ = b.extractLsb' 0 5 &&& (0x1F : Byte).extractLsb' 0 5 := rfl
    _ = (b &&& 0x1F).extractLsb' 0 5 := BitVec.extractLsb'_and.symm

/-- The layer reads nothing of the mode word but its low five bits (R193). -/
theorem takeWord_mode {r : Fsm} {c : Caller} {w : Word} {e1 : Bool} (h : c.chan = .mode w e1) :
    takeWord r c = { c with l16Word := w, l16Exp := modeRawExp r.rawWord, chan := .idle,
                            result := some ⟨dec16 w (modeRawExp r.rawWord), e1 || r.err⟩ } := by
  rw [takeWord, h]
  rfl

/-- Settles O51: the delivered result reads the mode byte through `modeRawExp` only. -/
theorem modeByteUpperBitsAreIgnored : Obligations.ModeByteUpperBitsAreIgnored := by
  unfold Obligations.ModeByteUpperBitsAreIgnored
  intro r₁ r₂ c w e1 b₁ b₂ hc h₁ h₂ herr hlow
  have hexp : modeRawExp r₁.rawWord = modeRawExp r₂.rawWord := by
    rw [h₁, h₂, modeRawExp_rawFirst, modeRawExp_rawFirst, hlow]
  rw [takeWord_mode hc, takeWord_mode hc, hexp, herr]

/-! ### The stops of a step -/

theorem step_interleaved {s : State} (hr : (nextEdge s).rst = false) (hi : interleaved (nextEdge s) s = true) :
    step s = .fault .interleavedBus := by
  simp [step, hr, hi]

/-- An edge that presents what the decoder rejects is refused with the decoder's reason. -/
theorem step_rejects {s : State} {q : CallerRequest} {r : Reject} (hr : (nextEdge s).rst = false)
    (hi : interleaved (nextEdge s) s = false) (hq : (nextEdge s).request = some q) (hd : decode q.bundle = .error r) :
    step s = .refused (.rejected r) := by
  simp [step_edge hr hi, hq, runBundles, hd, andThen]

/-- The three ends of a step: the fault of an interleaved edge, the refusal of a rejected bundle, else a next state. -/
theorem step_outcomes (s : State) :
    (((nextEdge s).rst = false ∧ interleaved (nextEdge s) s = true) ∧ step s = .fault .interleavedBus) ∨
      (¬ ((nextEdge s).rst = false ∧ interleaved (nextEdge s) s = true) ∧
        ((∃ t, step s = .next t) ∨ ∃ q r, (nextEdge s).request = some q ∧ decode q.bundle = .error r ∧
          step s = .refused (.rejected r))) := by
  cases hr : (nextEdge s).rst with
  | true => exact .inr ⟨by simp, .inl ⟨_, step_reset hr⟩⟩
  | false =>
    cases hi : interleaved (nextEdge s) s with
    | true => exact .inl ⟨⟨rfl, rfl⟩, step_interleaved hr hi⟩
    | false =>
      refine .inr ⟨by simp, ?_⟩
      cases ho : opDecodes (nextEdge s) with
      | true => exact .inl (step_answers hr hi ho)
      | false =>
        cases hq : (nextEdge s).request with
        | none => simp [opDecodes, hq] at ho
        | some q =>
          cases hd : decode q.bundle with
          | ok i => simp [opDecodes, hq, hd] at ho
          | error r => exact .inr ⟨q, r, rfl, hd, step_rejects hr hi hq hd⟩

theorem interleaved_iff (e : Edge) (s : State) :
    interleaved e s = true ↔ s.fsm.busy = true ∧ e.outside ≠ .quiet := by
  simp [interleaved]

/-- Settles O60: of the three ends of a step, the fault is the interleaved edge's, and a refusal is the decoder's,
which rejects only a descriptor that is no channel. -/
theorem stepStopsOnlyByName : Obligations.StepStopsOnlyByName := by
  unfold Obligations.StepStopsOnlyByName
  intro s
  rw [← interleaved_iff]
  obtain ⟨hi, hfault⟩ | ⟨hi, ⟨t, hnext⟩ | ⟨q, rej, hq, hd, hrefused⟩⟩ := step_outcomes s
  · exact ⟨fun _ => by simp [hfault, hi], by simp [hfault]⟩
  · exact ⟨fun _ => by simp [hnext, hi], by simp [hnext]⟩
  · refine ⟨fun _ => by simp [hrefused, hi], ?_⟩
    intro r h
    obtain rfl : .rejected rej = r := by simpa [hrefused] using h
    obtain ⟨d, hb, hnone, rfl⟩ := decode_error_iff.1 hd
    cases q with
    | rq => cases hb
    | channel =>
      cases hb
      exact ⟨d, hq, hnone, rfl⟩

/-! ### The 5-bit negation and the two recoveries of the exponent -/

theorem neg5_eq_neg (raw : RawExp) : neg5 raw = -raw := (BitVec.neg_eq_not_add raw).symm

/-- The negation as a number (R88); it is also the shift count of Linear16 (R172). -/
theorem neg5_toNat (raw : RawExp) : (neg5 raw).toNat = (32 - raw.toNat) % 32 := by
  rw [neg5_eq_neg, BitVec.toNat_neg]

/-- Settles O40: at every width the expression is the negation, which truncation keeps. -/
theorem negationNeedsOnlyFiveBits : Obligations.NegationNeedsOnlyFiveBits := by
  unfold Obligations.NegationNeedsOnlyFiveBits
  refine ⟨neg5_toNat, rfl, rfl, ?_⟩
  intro n raw hn
  calc neg5 (raw.setWidth 5)
    _ = -raw.setWidth 5 := neg5_eq_neg _
    _ = (-raw).setWidth 5 := (BitVec.setWidth_neg_of_le hn).symm
    _ = (~~~raw + 1).setWidth 5 := congrArg _ (BitVec.neg_eq_not_add raw)

theorem shift16_toNat (x : RawExp) : shift16 x = (32 - x.toNat) % 32 := neg5_toNat x

/-- The top bit of a raw exponent is its sign (R87). -/
theorem rawExp_top_bit (x : RawExp) : x.getLsbD 4 = decide (16 ≤ x.toNat) := BitVec.msb_eq_decide x

theorem shift11_of_negative {x : RawExp} (h : 16 ≤ x.toNat) : shift11 x = 32 - x.toNat := by
  rw [shift11, rawExp_top_bit, decide_eq_true h, if_pos rfl, neg5_toNat]
  omega

theorem shift11_of_nonnegative {x : RawExp} (h : x.toNat < 16) : shift11 x = x.toNat := by
  rw [shift11, rawExp_top_bit]
  simp [h]

/-- Settles O41, by the sign of the raw exponent: both negate a negative one, and Linear16 negates a positive one
too. -/
theorem recoveriesAgreeExactlyOffPositive : Obligations.RecoveriesAgreeExactlyOffPositive := by
  unfold Obligations.RecoveriesAgreeExactlyOffPositive
  intro x
  have hlt := x.isLt
  rw [shift16_toNat, BitVec.toInt_eq_toNat_cond]
  obtain h | h := Nat.lt_or_ge x.toNat 16
  · rw [shift11_of_nonnegative h, if_pos (by omega)]
    omega
  · rw [shift11_of_negative h, if_neg (by omega)]
    omega

end Sys2Proof.Machine

namespace Sys2Proof.Machine

/-! ### The coming edges over a run

Every step consumes one edge, so what holds of every listed edge holds of every coming edge of a run. -/

theorem exec_inputs {i : Instr} {s t : State} (h : exec i s = .next t) : t.inputs = s.inputs := by
  obtain ⟨len2, a, c, rfl⟩ | ⟨ch, rfl⟩ | ⟨w, rfl⟩ | ⟨w, x, rfl⟩ := exec_cases h
  · exact (presentRequest_keeps len2 a c s).1.inputs
  · exact (startChannel_keeps ch s).inputs
  · rfl
  · rfl

theorem presentMode_inputs (s : State) : (presentMode s).inputs = s.inputs := by
  cases hc : s.caller.chan with
  | idle | word | mode => simp [presentMode, hc]
  | modePending w e1 => cases hb : s.fsm.busy <;> simp [presentMode, hc, Fsm.reqReady, hb]

theorem closeEdge_inputs (e : Edge) (before t : State) : (closeEdge e before t).inputs = t.inputs := by
  unfold closeEdge
  split
  · split <;> rfl
  · simp [presentMode_inputs]

theorem step_inputs {s t : State} (h : step s = .next t) : t.inputs = s.inputs.tail := by
  obtain ⟨_, rfl⟩ | ⟨_, _, u, rfl, ⟨_, rfl⟩ | ⟨q, i, _, _, he⟩⟩ := step_cases h
  · simp
  · simp [closeEdge_inputs]
  · simp [closeEdge_inputs, exec_inputs he]

/-- No listed edge resets the block, hands commands to the transport or presents what the decoder rejects. -/
def Orderly (s : State) : Prop := ∀ e ∈ s.inputs, e.rst = false ∧ e.outside = .quiet ∧ opDecodes e = true

theorem orderly_iff (s : State) : Orderly s ↔ noReset s = true ∧ soleOwner s = true ∧ opsDecode s = true := by
  simp only [Orderly, noReset, soleOwner, opsDecode, List.all_eq_true, Bool.not_eq_true', beq_iff_eq, forall_and]

theorem nextEdge_of_orderly {s : State} (h : Orderly s) :
    (nextEdge s).rst = false ∧ (nextEdge s).outside = .quiet ∧ opDecodes (nextEdge s) = true := by
  cases hin : s.inputs with
  | nil =>
    rw [nextEdge_nil hin]
    exact ⟨rfl, rfl, rfl⟩
  | cons e es =>
    rw [nextEdge_cons hin]
    exact h e (by simp [hin])

theorem orderly_reaches {k : Nat} {s t : State} (ho : Orderly s) (h : Reaches k s t) : Orderly t := by
  induction k generalizing s with
  | zero => exact h ▸ ho
  | succ k ih =>
    obtain ⟨s', hs, hk⟩ := h
    exact ih (fun e he => ho e (List.mem_of_mem_tail (step_inputs hs ▸ he))) hk

/-! ### A completion at the coming edge -/

/-- The registers and the transport after a completion in a busy state, whatever the caller presents. -/
theorem step_of_completesNow {s : State} {sent : List Byte} (hc : CompletesNow s sent) (hb : s.fsm.busy = true) :
    ∃ t, step s = .next t ∧ t.fsm = advance sent.length (readAnswer s.transport) s.fsm ∧
      t.transport = transportDone (outstanding s.fsm) sent s.transport := by
  obtain ⟨t, _, hstep, rfl, hfsm, htr, _⟩ := step_completes hc hb
  exact ⟨_, hstep, by simp [hfsm, htr], by simp [hfsm, htr]⟩

/-! ### Under `TRANSPORT_LIVE` every request completes (R128)

Each command outstanding is completed in turn, so the number of commands that remain falls to 0. -/

theorem remaining_pos {r : Fsm} (hb : r.busy = true) : 0 < remaining r := by
  cases hs : r.state with
  | sIdle => exact absurd hs ((busy_iff r).1 hb)
  | sBegin | sWrite | sEnd | sReq | sRdLo | sRdHi => simp [remaining, hs, expectedLen]

theorem transportLive_reaches {k : Nat} {s t : State} (hl : TransportLive s) (h : Reaches k s t) : TransportLive t :=
  fun j u hu => hl (k + j) u (reaches_trans h hu)

/-- A live transport brings a busy FSM, in some number of steps, to the next row of R130. -/
theorem reaches_completion {s : State} (hb : s.fsm.busy = true) (hl : TransportLive s) (ho : Orderly s) :
    ∃ k t n b, Reaches k s t ∧ t.fsm = advance n b s.fsm := by
  obtain ⟨j, u, sent, hu, hfsm, hdone⟩ := hl 0 s (reaches_zero s) hb
  obtain ⟨hr, hq, hd⟩ := nextEdge_of_orderly (orderly_reaches ho hu)
  obtain ⟨t, hstep, ht, _⟩ := step_of_completesNow ⟨hr, hq, hd, hdone⟩ (hfsm ▸ hb)
  exact ⟨j + 1, t, _, _, reaches_trans hu (reaches_step hstep), hfsm ▸ ht⟩

/-- Settles O32, by induction on the number of commands that remain: a completion leaves one command fewer, or ends
the request with `DONE` set. -/
theorem liveTransportCompletesEveryRequest : Obligations.LiveTransportCompletesEveryRequest := by
  unfold Obligations.LiveTransportCompletesEveryRequest
  intro s hb hl hr hso hod
  have ho : Orderly s := (orderly_iff s).2 ⟨hr, hso, hod⟩
  clear hr hso hod
  induction hn : remaining s.fsm generalizing s with
  | zero => exact absurd hn (remaining_pos hb).ne'
  | succ n ih =>
    obtain ⟨j, u, k, b, hu, hfsm⟩ := reaches_completion hb hl ho
    obtain ⟨hgo, _⟩ | ⟨hidle, hdone, _⟩ := advance_ends_or_goes_on k b hb
    · have hfewer : remaining u.fsm = n := by rw [hfsm, remaining_advance, hn, Nat.add_sub_cancel]
      obtain ⟨k', t, ht, hend⟩ := ih u (hfsm ▸ hgo) (transportLive_reaches hl hu) (orderly_reaches ho hu) hfewer
      exact ⟨j + k', t, reaches_trans hu ht, hend⟩
    · exact ⟨j, u, hu, hfsm ▸ hidle, hfsm ▸ hdone⟩

end Sys2Proof.Machine

namespace Sys2Proof.Machine

/-! ### The rows of R130, with every register written out

What a completion writes in each busy state: where one row decides it, the lemma of the model's laws says so
(`advance_begin` and the like); the two rows of `S_RD_LO` stand here. The statements on the single states and the whole
table read it off. -/

theorem busy_of_state {r : Fsm} {st : FsmState} (hs : r.state = st) (hne : st ≠ .sIdle) : r.busy = true :=
  (busy_iff r).2 (hs ▸ hne)

theorem advance_rdLo_one {r : Fsm} (k : Nat) (b : Byte) (hs : r.state = .sRdLo) (hl : r.len2R = false) :
    advance k b r = { r with rawWord := 0#8 ++ b, done := true, state := .sIdle } := by
  rw [advance_rdLo k b hs, stepRdLo_one b r hl, rawFirst_eq_append]

theorem advance_rdLo_two {r : Fsm} (k : Nat) (b : Byte) (hs : r.state = .sRdLo) (hl : r.len2R = true) :
    advance k b r = { r with rawWord := 0#8 ++ b, state := .sRdHi } := by
  rw [advance_rdLo k b hs, stepRdLo_two b r hl, rawFirst_eq_append]

/-- Settles O8: the row of `S_BEGIN`. -/
theorem stepOutOfBegin : Obligations.StepOutOfBegin := by
  unfold Obligations.StepOutOfBegin
  intro s sent hc hs
  obtain ⟨t, hstep, hfsm, _⟩ := step_of_completesNow hc (busy_of_state hs (by decide))
  exact ⟨by simp [outstanding, hs], t, hstep, hfsm.trans (advance_begin _ _ hs)⟩

/-- Settles O9: the row of `S_WRITE`. -/
theorem stepOutOfWrite : Obligations.StepOutOfWrite := by
  unfold Obligations.StepOutOfWrite
  intro s sent hc hs
  obtain ⟨t, hstep, hfsm, _⟩ := step_of_completesNow hc (busy_of_state hs (by decide))
  exact ⟨by simp [outstanding, hs], t, hstep, hfsm.trans (advance_write _ _ hs)⟩

/-- Settles O10: the row of `S_END`; of all states it alone issues a `T_END`. -/
theorem stepOutOfEnd : Obligations.StepOutOfEnd := by
  unfold Obligations.StepOutOfEnd
  constructor
  · intro s sent hc hs
    obtain ⟨t, hstep, hfsm, _⟩ := step_of_completesNow hc (busy_of_state hs (by decide))
    exact ⟨by simp [outstanding, hs], t, hstep, hfsm.trans (advance_end _ _ hs)⟩
  · intro r
    cases hs : r.state <;> simp [outstanding, hs]

/-- Settles O11: the row of `S_REQ`, and the port's comparison by `saturate_ne_lenPins`. -/
theorem stepOutOfReq : Obligations.StepOutOfReq := by
  unfold Obligations.StepOutOfReq
  constructor
  · intro s sent hc hs
    obtain ⟨t, hstep, hfsm, _⟩ := step_of_completesNow hc (busy_of_state hs (by decide))
    exact ⟨by simp [outstanding, hs, expectedLen], t, hstep, hfsm.trans (advance_req _ _ hs)⟩
  · intro k len2
    rw [← lenPins, ← bne_iff_ne, saturate_ne_lenPins, incomplete, decide_eq_true_iff, expectedLen]

/-- Settles O12: the row of `S_RD_LO`, by `LEN2_R`. -/
theorem stepOutOfRdLo : Obligations.StepOutOfRdLo := by
  unfold Obligations.StepOutOfRdLo
  intro s sent hc hs
  obtain ⟨t, hstep, hfsm, _⟩ := step_of_completesNow hc (busy_of_state hs (by decide))
  exact ⟨t, hstep, fun hl => hfsm.trans (advance_rdLo_two _ _ hs hl), fun hl => hfsm.trans (advance_rdLo_one _ _ hs hl)⟩

/-- Settles O13: the row of `S_RD_HI`. -/
theorem stepOutOfRdHi : Obligations.StepOutOfRdHi := by
  unfold Obligations.StepOutOfRdHi
  intro s sent hc hs
  obtain ⟨t, hstep, hfsm, _⟩ := step_of_completesNow hc (busy_of_state hs (by decide))
  exact ⟨t, hstep, hfsm.trans (advance_rdHi _ _ hs)⟩

/-- Settles O15: every step is one clock edge of the port-level machine (O16), whose rows are the table's. -/
theorem transitionTable : Obligations.TransitionTable := by
  unfold Obligations.TransitionTable
  intro s t h
  have hfsm : t.fsm = clockEdge (pinsOf (nextEdge s) s) s.fsm := everyStepIsOneClockEdge s t h
  refine ⟨fun hr => hfsm.trans (clockEdge_reset _ hr), fun hr => ⟨?_, ?_, ?_, ?_⟩⟩
  · intro hi hq
    exact hfsm.trans (clockEdge_idles hr hi (by simp [pinsOf, hq]))
  · intro hi len2 a c hq
    rw [hfsm, clockEdge_accepts hr hi (by simp [pinsOf, hq])]
    simp [pinsOf, hq, accept, clearFlags]
  · intro hi hd
    exact hfsm.trans (clockEdge_waits hr ((busy_iff _).2 hi) (by simp [pinsOf, hd]))
  · intro sent hd
    have hrow (hb : s.fsm.busy = true) : t.fsm = advance sent.length (readAnswer s.transport) s.fsm :=
      hfsm.trans (clockEdge_completes hr hb (by simp [pinsOf, hd]) (by simp [pinsOf, hd]))
    refine ⟨fun hs => ?_, fun hs => ?_, fun hs => ?_, fun hs => ?_, fun hs hl => ?_, fun hs hl => ?_, fun hs => ?_⟩
    all_goals refine (hrow (busy_of_state hs (by decide))).trans ?_
    · exact advance_begin _ _ hs
    · exact advance_write _ _ hs
    · exact advance_end _ _ hs
    · exact advance_req _ _ hs
    · exact advance_rdLo_one _ _ hs hl
    · exact advance_rdLo_two _ _ hs hl
    · exact advance_rdHi _ _ hs

/-! ### The outstanding command and the pins -/

/-- The length pins show the number of bytes asked for (R117, R121). -/
theorem lenPins_eq_ofNat (len2 : Bool) : lenPins len2 = BitVec.ofNat 2 (1 + len2.toNat) := by
  cases len2 <;> rfl

theorem portOut_tValid (r : Fsm) : (portOut r).tValid = r.busy := by
  cases hs : r.state <;> simp [portOut, hs, callerPins]

/-- Settles O14: the table row by row, and an edge without a completion by `step_orderly`. -/
theorem outstandingCommandOfEachState : Obligations.OutstandingCommandOfEachState := by
  unfold Obligations.OutstandingCommandOfEachState
  constructor
  · intro r
    refine ⟨portOut_tValid r, fun hs => ?_, fun hs => ?_, fun hs => ?_, fun hs => ?_, fun hs => ?_,
      fun h => h.elim (fun hs => ?_) (fun hs => ?_)⟩
    all_goals simp [outstanding, portOut, hs, expectedLen, lenPins_eq_ofNat]
  · intro s ⟨hr, hq, ho, hd⟩ hb
    obtain ⟨t, hstep, _, hcore⟩ := step_orderly hb hr hq ho
    rw [hd] at hcore
    exact ⟨t, hstep, congrArg Prod.fst hcore⟩

/-- Settles O34: no state issues code 4, and no row of the port-level machine looks at `t_avail`. -/
theorem availIsNeverIssued : Obligations.AvailIsNeverIssued := by
  unfold Obligations.AvailIsNeverIssued
  refine ⟨rfl, fun r => ?_, fun _ _ _ => rfl⟩
  cases hs : r.state <;> simp [outstanding, portOut, callerPins, hs]

/-- Settles O28: the completing step's transport, then the bytes in order (`readAnswer_takeByte_iterate`). -/
theorem readsReturnTheBytesInOrder : Obligations.ReadsReturnTheBytesInOrder := by
  unfold Obligations.ReadsReturnTheBytesInOrder
  refine ⟨?_, ?_, readAnswer_takeByte_iterate⟩
  · intro s sent hc hs
    obtain ⟨t, hstep, _, htr⟩ := step_of_completesNow hc (busy_of_state hs (by decide))
    exact ⟨t, hstep, by simp [htr, outstanding, hs, transportDone, transportEffect]⟩
  · intro s sent hc hs
    have hread : s.fsm.busy = true ∧ outstanding s.fsm = some .tRead := by
      obtain hs | hs := hs <;> simp [busy_iff, outstanding, hs]
    obtain ⟨t, hstep, _, htr⟩ := step_of_completesNow hc hread.1
    rw [hread.2] at htr
    exact ⟨t, hstep, by rw [htr]; rfl, by rw [htr]; rfl⟩

/-! ### Presenting a request -/

/-- Settles O4: on a free port a request is accepted; with nothing on the port an idle step leaves the registers. -/
theorem acceptedRequestLatchesItsOperands : Obligations.AcceptedRequestLatchesItsOperands := by
  unfold Obligations.AcceptedRequestLatchesItsOperands
  constructor
  · intro s a c hi hc
    have hfree : portFree s = true := (portFree_iff s).2 ⟨hi, hc⟩
    exact ⟨⟨_, exec_request_free false a c hfree, rfl⟩, ⟨_, exec_request_free true a c hfree, rfl⟩⟩
  · intro s hi hc hr hq
    have hpins : requestPins (nextEdge s) s = none := by simp [requestPins, hc, hq]
    obtain ⟨t, h⟩ := step_answers hr (interleaved_idle ((not_busy_iff _).2 hi)) (by simp [opDecodes, hq])
    obtain ⟨q, hsome, _⟩ | ⟨_, hfsm⟩ := step_idle_fsm hi hr h
    · simp [hpins] at hsome
    · exact ⟨t, h, hfsm⟩

/-- Settles O6: each of the seven operations presents a request or begins a channel, and the port is taken. -/
theorem takenPortTurnsEveryRequestAway : Obligations.TakenPortTurnsEveryRequestAway := by
  unfold Obligations.TakenPortTurnsEveryRequestAway
  intro s a c hp
  simp [presentRequest_taken _ _ _ hp, startChannel_taken _ hp]

/-- Settles O5: while the FSM is busy the port is taken (O6). -/
theorem requestWhileBusyIsNotAccepted : Obligations.RequestWhileBusyIsNotAccepted := by
  unfold Obligations.RequestWhileBusyIsNotAccepted
  intro s a c hb
  have haway := takenPortTurnsEveryRequestAway s a c (portFree_busy hb)
  exact ⟨by simp [Fsm.reqReady, hb], haway _ (by simp), haway _ (by simp)⟩

end Sys2Proof.Machine

namespace Sys2Proof.Machine

/-! ### A run of one request with nothing else at its edges -/

/-- An edge without reset at which the caller drives none of its ports. -/
structure CallerSilent (e : Edge) : Prop where
  rst : e.rst = false
  request : e.request = none
  l11 : e.l11 = none
  l16 : e.l16 = none

/-- Such an edge leaves the caller as it is when no pseudo-operation is in progress. -/
theorem step_callerSilent {s t : State} (hc : s.caller.chan = .idle) (he : CallerSilent (nextEdge s))
    (h : step s = .next t) : t.caller = s.caller := by
  obtain ⟨hr, _⟩ | ⟨_, _, u, rfl, ⟨_, rfl⟩ | ⟨q, i, hq, _⟩⟩ := step_cases h
  · simp [he.rst] at hr
  · rw [driven_none _ he.l11 he.l16]
    cases hb : s.fsm.busy with
    | true =>
      cases hd : (nextEdge s).done with
      | none => simp [closeEdge_waits (b := dropEdge s) hb hd]
      | some sent => simp [closeEdge_busy (b := dropEdge s) hb hd, completeCommand_caller_idle, hc]
    | false => simp [closeEdge_idle (b := dropEdge s) hb, presentMode_other, hc]
  · simp [he.request] at hq

theorem reaches_callerSilent {es rest : List Edge} {s t : State} (hin : s.inputs = es ++ rest)
    (hes : ∀ e ∈ es, CallerSilent e) (hc : s.caller.chan = .idle) (h : Reaches es.length s t) :
    t.caller = s.caller := by
  induction es generalizing s with
  | nil => exact congrArg State.caller (Eq.symm h)
  | cons e es ih =>
    obtain ⟨s', hs, hk⟩ := h
    have hcaller : s'.caller = s.caller :=
      step_callerSilent hc (nextEdge_cons hin ▸ hes e List.mem_cons_self) hs
    have hin' : s'.inputs = es ++ rest := by simp [step_inputs hs, hin]
    exact (ih hin' (fun e' he' => hes e' (List.mem_cons_of_mem _ he')) (hcaller ▸ hc) hk).trans hcaller

theorem requestCompletions_callerSilent (len2 : Bool) (sent : List Byte) :
    ∀ e ∈ requestCompletions len2 sent, CallerSilent e := by
  have hsilent (x : List Byte) : CallerSilent (completing x) := ⟨rfl, rfl, rfl, rfl⟩
  cases len2 <;> simp [requestCompletions, hsilent]

/-- A request on a free port whose commands complete at the very next edges (R114, R115): `requestRunsInAnySchedule`
for that schedule, and the caller untouched. -/
theorem request_completes (len2 : Bool) (a : DevAddr) (c : Byte) {s : State} {sent : List Byte} {rest : List Edge}
    (hfree : portFree s = true) (hin : s.inputs = requestCompletions len2 sent ++ rest) :
    ∃ t u, exec (if len2 then .req2 a c else .req1 a c) s = .next t ∧
      Reaches (requestCompletions len2 sent).length t u ∧
      u.fsm = ⟨.sIdle, a, c, len2, resultWord len2 sent s.transport.draws, true,
        decide (sent.length ≠ expectedLen len2)⟩ ∧
      u.transport.log = requestCommands len2 a c ∧ u.inputs = rest ∧ u.caller = s.caller := by
  obtain ⟨t, u, hexec, hreach, hfsm, hlog, hrest⟩ :=
    requestRunsInAnySchedule s len2 a c _ rest hfree hin (schedule_requestCompletions len2 sent)
  have hsent : (answers (requestCompletions len2 sent)).getD 3 [] = sent := by
    rw [answers_requestCompletions]
    rfl
  rw [hsent] at hfsm
  refine ⟨t, u, hexec, hreach, hfsm, hlog, hrest, ?_⟩
  obtain rfl : acceptRequest len2 a c (clearLog s) = t := by
    simpa [exec_request_free len2 a c hfree] using hexec
  obtain ⟨_, hc⟩ := (portFree_iff s).1 hfree
  exact reaches_callerSilent (s := acceptRequest len2 a c (clearLog s)) hin (requestCompletions_callerSilent len2 sent) hc
    hreach

/-- Settles O25: the run of a request of one byte. -/
theorem oneByteRequestCompletes : Obligations.OneByteRequestCompletes := by
  unfold Obligations.OneByteRequestCompletes
  intro s a c sent rest hfree hin
  exact request_completes false a c hfree hin

/-- Settles O26: the run of a request of two bytes. -/
theorem twoByteRequestCompletes : Obligations.TwoByteRequestCompletes := by
  unfold Obligations.TwoByteRequestCompletes
  intro s a c sent rest hfree hin
  exact request_completes true a c hfree hin

end Sys2Proof.Machine

namespace Sys2Proof.Machine

/-! ### The barrel shifter and the repeated division, whichever decoder uses them (R154, R155, R174) -/

/-- The left shift is by 31 at most. -/
theorem shifted_le (n s : Nat) : n * 2 ^ (31 - s) ≤ n * 2 ^ 31 :=
  Nat.mul_le_mul_left n (Nat.pow_le_pow_right two_pos (Nat.sub_le ..))

/-- No set bit leaves the 47-bit port, whatever the count. -/
theorem barrel_toNat (m : Word) (s : Nat) : (barrel m s).toNat = m.toNat * 2 ^ (31 - s) := by
  have hfit : m.toNat * 2 ^ (31 - s) < 2 ^ 47 := (shifted_le m.toNat s).trans_lt (by omega)
  rw [barrel, BitVec.toNat_shiftLeft, BitVec.toNat_setWidth_of_le (by decide), Nat.shiftLeft_eq, Nat.mod_eq_of_lt hfit]

/-- The port is exact: its 31 fraction bits hold the whole quotient. -/
theorem fixedValue_barrel (m : Word) {s : Nat} (hs : s ≤ 31) : fixedValue (barrel m s) = (m.toNat : ℚ) / 2 ^ s := by
  have hsplit : (2 : ℚ) ^ 31 = 2 ^ (31 - s) * 2 ^ s := by rw [← pow_add, Nat.sub_add_cancel hs]
  rw [fixedValue, barrel_toNat, hsplit, Nat.cast_mul, Nat.cast_pow, Nat.cast_ofNat, mul_comm (m.toNat : ℚ)]
  exact mul_div_mul_left _ _ (by positivity)

theorem barrel_low_bits_zero (m : Word) {s i : Nat} (h : i < 31 - s) : (barrel m s).getLsbD i = false := by
  simp [barrel, h]

theorem halvings_eq_div_pow (n : Nat) (v : ℚ) : halvings n v = v / 2 ^ n := by
  induction n generalizing v with
  | zero => simp [halvings]
  | succ n ih => rw [halvings, ih, div_div, pow_succ']

/-- Dividing by a power of two is the PMBus reading with the exponent negated (R153). -/
theorem div_two_pow_eq_zpow (v : ℚ) (s : Nat) : v / 2 ^ s = v * 2 ^ (-(s : ℤ)) := by
  rw [zpow_neg, zpow_natCast, div_eq_mul_inv]

/-! ### The fields of a Linear11 word (R151) -/

/-- The mantissa by the source's mask. -/
theorem l11Mantissa_toNat (w : Word) : (l11Mantissa w).toNat = (w &&& 0x7FF).toNat := by
  rw [l11Mantissa, BitVec.extractLsb'_toNat, BitVec.toNat_and]
  exact (Nat.and_two_pow_sub_one_eq_mod w.toNat 11).symm

/-- The raw exponent by the source's shift. -/
theorem l11RawExp_toNat (w : Word) : (l11RawExp w).toNat = (w >>> 11).toNat := by
  rw [l11RawExp, BitVec.extractLsb'_toNat, BitVec.toNat_ushiftRight, Nat.shiftRight_eq_div_pow]
  omega

theorem l11RawExp_eq_setWidth (w : Word) : l11RawExp w = (w >>> 11).setWidth 5 := by
  apply BitVec.eq_of_toNat_eq
  rw [l11RawExp, BitVec.extractLsb'_toNat, BitVec.toNat_setWidth, BitVec.toNat_ushiftRight]

theorem l11Mantissa_l11Pack (e : RawExp) (m : BitVec 11) : l11Mantissa (l11Pack e m) = m :=
  BitVec.extractLsb'_append_eq_right

theorem l11RawExp_l11Pack (e : RawExp) (m : BitVec 11) : l11RawExp (l11Pack e m) = e :=
  BitVec.extractLsb'_append_eq_left

/-- `(x << 11) | m` of two fields in range is their sum (R160). -/
theorem l11Pack_ofNat {x m : Nat} (hx : x < 32) (hm : m < 2048) :
    l11Pack (BitVec.ofNat 5 x) (BitVec.ofNat 11 m) = BitVec.ofNat 16 (x * 2048 + m) := by
  apply BitVec.eq_of_toNat_eq
  rw [l11Pack, BitVec.toNat_append, BitVec.toNat_ofNat, BitVec.toNat_ofNat, BitVec.toNat_ofNat, Nat.mod_eq_of_lt hx,
    Nat.mod_eq_of_lt hm, ← Nat.shiftLeft_add_eq_or_of_lt hm, Nat.shiftLeft_eq]
  omega

/-! ### The shift count of Linear11 (R152) -/

theorem shift11_eq_natAbs (e : RawExp) : shift11 e = e.toInt.natAbs := (recoveriesAgreeExactlyOffPositive e).1

theorem shift11_le (e : RawExp) : shift11 e ≤ 16 := by
  obtain h | h := Nat.lt_or_ge e.toNat 16
  · rw [shift11_of_nonnegative h]
    omega
  · rw [shift11_of_negative h]
    omega

/-- The count is taken in the word's own width by the source: only the low 5 bits of the negation matter (R88). -/
theorem shift11_l11RawExp (w : Word) : shift11 (l11RawExp w) =
    if (w >>> 11).getLsbD 4 then ((~~~(w >>> 11) + 1) &&& 0x1F).toNat else (w >>> 11).toNat := by
  obtain ⟨_, _, _, hneg⟩ := negationNeedsOnlyFiveBits
  have hmask (y : Word) : (y.setWidth 5).toNat = (y &&& 0x1F).toNat :=
    (BitVec.toNat_setWidth ..).trans (Nat.and_two_pow_sub_one_eq_mod y.toNat 5).symm
  have hbit : (l11RawExp w).getLsbD 4 = (w >>> 11).getLsbD 4 := by simp [l11RawExp_eq_setWidth]
  rw [shift11, hbit, l11RawExp_toNat, l11RawExp_eq_setWidth, hneg 16 _ (by decide), hmask]

/-- Settles O38, by the sign of the exponent. -/
theorem linearElevenShiftCount : Obligations.LinearElevenShiftCount := by
  unfold Obligations.LinearElevenShiftCount
  intro e
  have hcount : shift11 e = if e.getLsbD 4 then 32 - e.toNat else e.toNat := by
    rw [rawExp_top_bit]
    obtain h | h := Nat.lt_or_ge e.toNat 16
    · simp [shift11_of_nonnegative h, h]
    · simp [shift11_of_negative h, h]
  have hlast : shift11 e = 16 ↔ e.toNat = 16 := by
    obtain h | h := Nat.lt_or_ge e.toNat 16
    · rw [shift11_of_nonnegative h]
    · rw [shift11_of_negative h]
      omega
  exact ⟨hcount, shift11_eq_natAbs e, shift11_le e, hlast.trans (BitVec.toNat_inj (y := 0b10000))⟩

/-! ### The output and the value of Linear11 (R154, R155) -/

theorem dec11_toNat (w : Word) : (dec11 w).toNat = (l11Mantissa w).toNat * 2 ^ (31 - shift11 (l11RawExp w)) := by
  rw [dec11, barrel_toNat, BitVec.toNat_setWidth_of_le (by decide)]

theorem fixedValue_dec11 (w : Word) : fixedValue (dec11 w) = dec11Value w := by
  rw [dec11, fixedValue_barrel _ ((shift11_le _).trans (by decide)), BitVec.toNat_setWidth_of_le (by decide), dec11Value]

/-- The mantissa has 11 bits and moves up by at most 31. -/
theorem dec11_lt (w : Word) : (dec11 w).toNat < 2 ^ 42 := by
  rw [dec11_toNat]
  exact (shifted_le ..).trans_lt (by omega)

theorem dec11Value_l11Pack (e : RawExp) (m : BitVec 11) :
    dec11Value (l11Pack e m) = (m.toNat : ℚ) / 2 ^ shift11 e := by
  rw [dec11Value, l11Mantissa_l11Pack, l11RawExp_l11Pack]

/-- Settles O35: the source's masks give the two fields and the shift count. -/
theorem linearElevenDecodes : Obligations.LinearElevenDecodes := by
  unfold Obligations.LinearElevenDecodes
  intro w s
  refine ⟨_, exec_dec11 w s, rfl, ?_⟩
  intro sh hsh
  obtain rfl : shift11 (l11RawExp w) = sh := (shift11_l11RawExp w).trans hsh.symm
  rw [← l11Mantissa_toNat]
  exact ⟨dec11_toNat w, fixedValue_dec11 w⟩

/-- Settles O42: at least `1 / 2^16` because the mantissa is at least 1 and the count at most 16. -/
theorem linearElevenValue : Obligations.LinearElevenValue := by
  unfold Obligations.LinearElevenValue
  intro w
  have hle : (2 : ℚ) ^ shift11 (l11RawExp w) ≤ 2 ^ 16 := pow_le_pow_right₀ one_le_two (shift11_le _)
  have hnonneg : 0 ≤ dec11Value w := by unfold dec11Value; positivity
  have hzero : dec11Value w = 0 ↔ l11Mantissa w = 0 := by
    simp [dec11Value, ← BitVec.toNat_inj]
  have hleast (h : l11Mantissa w ≠ 0) : (1 : ℚ) / 2 ^ 16 ≤ dec11Value w := by
    have hone : 1 ≤ (l11Mantissa w).toNat := BitVec.toNat_pos_of_ne_zero h
    exact div_le_div₀ (Nat.cast_nonneg _) (by exact_mod_cast hone) (by positivity) hle
  have hgreatest : dec11Value w ≤ 2047 := by
    have hm : (l11Mantissa w).toNat ≤ 2047 := by omega
    exact (div_le_self (Nat.cast_nonneg _) (one_le_pow₀ one_le_two)).trans (by exact_mod_cast hm)
  have hleastReached : dec11Value 0x8001 = 1 / 2 ^ 16 := by
    have hvalue : dec11Value 0x8001 = (1 : ℕ) / 2 ^ 16 := dec11Value_l11Pack 0b10000 1
    exact_mod_cast hvalue
  have hgreatestReached : dec11Value 0x07FF = 2047 := by
    have hvalue : dec11Value 0x07FF = (2047 : ℕ) / 2 ^ 0 := dec11Value_l11Pack 0 0x7FF
    simpa using hvalue
  exact ⟨(halvings_eq_div_pow _ _).symm, div_two_pow_eq_zpow _ _, hnonneg, hzero, hleast, hgreatest, hleastReached,
    hgreatestReached⟩

/-- The left shift for an exponent with its top bit clear. -/
theorem leftShift11_of_nonnegative {e : RawExp} (h : e.getLsbD 4 = false) : 31 - shift11 e = (~~~e).toNat := by
  rw [rawExp_top_bit, decide_eq_false_iff_not, not_le] at h
  rw [shift11_of_nonnegative h, BitVec.toNat_not]

/-- The left shift for an exponent with its top bit set. -/
theorem leftShift11_of_negative {e : RawExp} (h : e.getLsbD 4 = true) : 31 - shift11 e = (e - 1).toNat := by
  rw [rawExp_top_bit, decide_eq_true_iff] at h
  rw [shift11_of_negative h]
  bv_omega

/-- Settles O43: the port is below `2^42`, so its top five bits are zero. -/
theorem linearElevenPortIsExact : Obligations.LinearElevenPortIsExact := by
  unfold Obligations.LinearElevenPortIsExact
  intro w
  have hcount := shift11_le (l11RawExp w)
  have hshift : dec11 w = (l11Mantissa w).setWidth 47 <<< (31 - shift11 (l11RawExp w)) := by
    simp [dec11, barrel, BitVec.setWidth_setWidth]
  have htop : (dec11 w).extractLsb' 42 5 = 0 := by
    apply BitVec.eq_of_toNat_eq
    rw [BitVec.extractLsb'_toNat, Nat.shiftRight_eq_div_pow, Nat.div_eq_of_lt (dec11_lt w)]
    rfl
  exact ⟨fixedValue_dec11 w, hshift, by omega, leftShift11_of_nonnegative, leftShift11_of_negative, htop,
    fun _ => barrel_low_bits_zero _⟩

/-- Settles O44: the count is the exponent's absolute value, so the quotient is the PMBus reading exactly for an exponent
that is not positive. -/
theorem linearElevenAlwaysDividesUnsigned : Obligations.LinearElevenAlwaysDividesUnsigned := by
  unfold Obligations.LinearElevenAlwaysDividesUnsigned
  intro e m
  rw [dec11Value_l11Pack]
  refine ⟨?_, ?_, ?_⟩
  · intro h
    have hneg : e.toInt = -(shift11 e : ℤ) := by rw [shift11_eq_natAbs]; omega
    rw [hneg, div_two_pow_eq_zpow]
  · intro h
    have hpos : e.toNat < 16 := by have := BitVec.toInt_pos_iff.1 h.le; omega
    rw [shift11_of_nonnegative hpos]
  · intro h
    have hleast : 1024 ≤ m.toNat := Nat.ge_two_pow_of_testBit h
    have hgreatest : m.toNat ≤ 2047 := by omega
    exact ⟨m.toNat, by exact_mod_cast hleast, by exact_mod_cast hgreatest, rfl, rfl⟩

/-- The 5-bit negation of a magnitude, recovered: beyond 16 the field's top bit is clear, and the field itself counts (R160). -/
theorem shift11_ofNat_neg {e : Nat} (he : e < 32) :
    shift11 (BitVec.ofNat 5 ((32 - e) % 32)) = if e ≤ 16 then e else 32 - e := by
  have hfield : (BitVec.ofNat 5 ((32 - e) % 32)).toNat = (32 - e) % 32 := Nat.mod_mod _ 32
  obtain h | h := Nat.lt_or_ge ((32 - e) % 32) 16
  · rw [shift11_of_nonnegative (hfield.trans_lt h), hfield]
    split <;> omega
  · rw [shift11_of_negative (h.trans_eq hfield.symm), hfield]
    split <;> omega

/-- Settles O45: the word packs the field and the mantissa, and the field's count is the magnitude only up to 16. -/
theorem linearElevenRoundTrip : Obligations.LinearElevenRoundTrip := by
  unfold Obligations.LinearElevenRoundTrip
  intro m e hm he
  rw [← l11Pack_ofNat (Nat.mod_lt _ (by decide)) hm, dec11Value_l11Pack, shift11_ofNat_neg he, BitVec.toNat_ofNat,
    Nat.mod_eq_of_lt hm]
  refine ⟨fun h => ?_, fun h => ?_⟩
  · rw [if_pos h]
  · rw [if_neg (by omega)]

end Sys2Proof.Machine

namespace Sys2Proof.Machine

/-! ### The shift count of Linear16 (R172) -/

theorem shift16_le (x : RawExp) : shift16 x ≤ 31 := Nat.le_of_lt_succ (neg5 x).isLt

/-- The count by the source's mask. -/
theorem shift16_eq_mask (x : RawExp) : shift16 x = ((~~~x + 1) &&& 0x1F).toNat :=
  congrArg BitVec.toNat (BitVec.and_allOnes (x := neg5 x)).symm

/-- For an exponent that is not positive the count is its magnitude (R173). -/
theorem shift16_of_nonpositive {x : RawExp} (h : x.toInt ≤ 0) : (shift16 x : ℤ) = -x.toInt := by
  obtain ⟨_, hmod, _⟩ := recoveriesAgreeExactlyOffPositive x
  have hleast : -16 ≤ x.toInt := BitVec.le_toInt x
  rw [hmod, Int.emod_eq_of_lt (by omega) (by omega)]

/-- A positive exponent is not taken as a magnitude: it counts from 32 downwards (R173). -/
theorem shift16_of_positive {x : RawExp} (h : 0 < x.toInt) : shift16 x = 32 - x.toNat := by
  have hpos : 0 < x.toNat := by have := BitVec.toInt_eq_toNat_cond x; omega
  rw [shift16_toNat, Nat.mod_eq_of_lt (by omega)]

/-- The left shift is the complement of the count (R174). -/
theorem leftShift16 (x : RawExp) : 31 - shift16 x = (x - 1).toNat :=
  calc 31 - shift16 x
    _ = (~~~(-x)).toNat := by rw [BitVec.toNat_not, shift16, neg5_eq_neg]
    _ = (x - 1).toNat := congrArg _ (BitVec.not_neg x)

/-- The 5-bit negation of a magnitude, recovered: the second negation undoes the first over the whole range (R180). -/
theorem shift16_ofNat_neg {e : Nat} (he : e < 32) : shift16 (BitVec.ofNat 5 ((32 - e) % 32)) = e := by
  rw [shift16_toNat, BitVec.toNat_ofNat]
  omega

/-- Settles O39: the residue of the negated exponent, read unsigned or signed; each count is the negation of its own
negation. -/
theorem linearSixteenShiftCount : Obligations.LinearSixteenShiftCount := by
  unfold Obligations.LinearSixteenShiftCount
  refine ⟨fun x => ?_, fun n hn => ⟨_, shift16_ofNat_neg (Nat.lt_succ_of_le hn)⟩⟩
  obtain ⟨_, hmod, _⟩ := recoveriesAgreeExactlyOffPositive x
  exact ⟨shift16_toNat x, hmod, shift16_le x⟩

/-! ### The output and the value of Linear16 (R173, R174) -/

theorem fixedValue_dec16 (w : Word) (x : RawExp) : fixedValue (dec16 w x) = dec16Value w x :=
  fixedValue_barrel w (shift16_le x)

theorem dec16Value_of_nonpositive (w : Word) {x : RawExp} (h : x.toInt ≤ 0) :
    dec16Value w x = (w.toNat : ℚ) * 2 ^ x.toInt := by
  rw [dec16Value, div_two_pow_eq_zpow, shift16_of_nonpositive h, neg_neg]

theorem dec16Value_of_positive (w : Word) {x : RawExp} (h : 0 < x.toInt) :
    dec16Value w x = (w.toNat : ℚ) / 2 ^ (32 - x.toNat) := by
  rw [dec16Value, shift16_of_positive h]

/-- The word 0 alone has the value 0 (R175). -/
theorem dec16Value_eq_zero_iff (w : Word) (x : RawExp) : dec16Value w x = 0 ↔ w = 0 := by
  simp [dec16Value, ← BitVec.toNat_inj]

/-- A word other than 0 is at least 1, and the count at most 31. -/
theorem dec16Value_ge {w : Word} (x : RawExp) (h : w ≠ 0) : (1 : ℚ) / 2 ^ 31 ≤ dec16Value w x := by
  have hone : 1 ≤ w.toNat := BitVec.toNat_pos_of_ne_zero h
  exact div_le_div₀ (Nat.cast_nonneg _) (by exact_mod_cast hone) (by positivity)
    (pow_le_pow_right₀ one_le_two (shift16_le x))

/-- The decoder only divides, so the word itself bounds the value. -/
theorem dec16Value_le (w : Word) (x : RawExp) : dec16Value w x ≤ 65535 := by
  have hw : w.toNat ≤ 65535 := by omega
  exact (div_le_self (Nat.cast_nonneg _) (one_le_pow₀ one_le_two)).trans (by exact_mod_cast hw)

/-- Settles O36: the source's mask gives the shift count. -/
theorem linearSixteenDecodes : Obligations.LinearSixteenDecodes := by
  unfold Obligations.LinearSixteenDecodes
  intro w x s
  refine ⟨_, exec_dec16 w x s, rfl, ?_⟩
  intro sh hsh
  obtain rfl : shift16 x = sh := (shift16_eq_mask x).trans hsh.symm
  exact ⟨barrel_toNat w _, fixedValue_dec16 w x⟩

/-- Settles O46, by the sign of the exponent; the least value is reached at exponent 1, the greatest at exponent 0. -/
theorem linearSixteenValue : Obligations.LinearSixteenValue := by
  unfold Obligations.LinearSixteenValue
  intro w x
  have hnonneg : 0 ≤ dec16Value w x := by unfold dec16Value; positivity
  have hleastReached : dec16Value 1 1 = 1 / 2 ^ 31 := by
    have hvalue : dec16Value 1 1 = (1 : ℕ) / 2 ^ 31 := dec16Value_of_positive 1 (by decide)
    exact_mod_cast hvalue
  have hgreatestReached : dec16Value 0xFFFF 0 = 65535 := by
    have hvalue : dec16Value 0xFFFF 0 = (65535 : ℕ) * 2 ^ (0 : ℤ) := dec16Value_of_nonpositive 0xFFFF (by decide)
    simpa using hvalue
  exact ⟨(halvings_eq_div_pow _ _).symm, dec16Value_of_nonpositive w, dec16Value_of_positive w, hnonneg,
    dec16Value_eq_zero_iff w x, dec16Value_ge x, dec16Value_le w x, hleastReached, hgreatestReached⟩

/-- Settles O47: the left shift `31 - s` is `x - 1` in 5 bits. -/
theorem linearSixteenPortIsExact : Obligations.LinearSixteenPortIsExact := by
  unfold Obligations.LinearSixteenPortIsExact
  intro w x
  rw [← leftShift16]
  exact ⟨fixedValue_dec16 w x, rfl, rfl, fun _ => barrel_low_bits_zero w⟩

/-- Settles O48: the field's count is the magnitude over the whole range. -/
theorem linearSixteenRoundTrip : Obligations.LinearSixteenRoundTrip := by
  unfold Obligations.LinearSixteenRoundTrip
  intro w e he
  rw [dec16Value, shift16_ofNat_neg he]

end Sys2Proof.Machine

namespace Sys2Proof.Machine

/-! ### The mode request of `VOUT`, and what its edge leaves of the transport -/

/-- Settles O7: the edge answers a next state, and `step_modePending` says which. -/
theorem pendingModeRequestIsAccepted : Obligations.PendingModeRequestIsAccepted := by
  unfold Obligations.PendingModeRequestIsAccepted
  intro s w e1 hc hi hr ho
  obtain ⟨t, h⟩ := step_answers hr (interleaved_idle ((not_busy_iff _).2 hi)) ho
  obtain ⟨hfsm, hchan, _⟩ := step_modePending hi hc hr h
  exact ⟨t, h, hfsm, hchan⟩

@[simp] theorem outsideEffect_draws (o : Outside) (s : State) :
    (outsideEffect o s).transport.draws = s.transport.draws := by
  cases o <;> simp [outsideEffect]

@[simp] theorem lateCompletion_draws (e : Edge) (s : State) :
    (lateCompletion e s).transport.draws = s.transport.draws := by
  unfold lateCompletion
  split <;> simp

/-- Whatever others do with the bus at the edge that accepts the mode request, the record and the count of draws stay
(R246). -/
theorem step_modePending_transport {s t : State} {w : Word} {e1 : Bool} (hi : s.fsm.state = .sIdle)
    (hc : s.caller.chan = .modePending w e1) (hr : (nextEdge s).rst = false) (h : step s = .next t) :
    t.transport.log = s.transport.log ∧ t.transport.draws = s.transport.draws := by
  obtain ⟨u, rfl, hu⟩ := step_idle ((not_busy_iff _).2 hi) hr h
  obtain ⟨hfsm, hchan⟩ := operation_taken (by simp [hc]) hu
  have htr : u.transport = (outsideEffect (nextEdge s).outside (dropEdge s)).transport := by
    obtain ⟨_, rfl⟩ | ⟨q, i, _, _, he⟩ := hu
    · rfl
    · obtain ⟨_, htr, _⟩ := exec_taken (portFree_chan (by simp [hc])) he
      exact htr
  rw [presentMode_pending (w := w) (e1 := e1) (by simp [hchan, hc]) (by simp [hfsm, hi])]
  simp [htr]

/-! ### The draws of one request (R124) -/

theorem complete_reads_draws (len2 : Bool) (a : DevAddr) (c : Byte) (w : Word) (err : Bool) (t : Transport)
    {reads : List (List Byte)} (hn : reads.length = expectedLen len2) :
    (reads.foldl complete (⟨.sRdLo, a, c, len2, w, false, err⟩, t)).2.draws = t.draws + drawsTaken len2 t.rx := by
  cases len2 with
  | false =>
    obtain ⟨x, rfl⟩ := List.length_eq_one_iff.1 hn
    cases h : t.rx <;>
      simp [complete, outstanding, transportDone, transportEffect, takeByte, h, drawsTaken, expectedLen]
  | true =>
    obtain ⟨x, y, rfl⟩ := List.length_eq_two.1 hn
    match h : t.rx with
    | [] | [_] | _ :: _ :: _ =>
      simp [complete, advance, stepRdLo, outstanding, transportDone, transportEffect, takeByte, h, drawsTaken,
        expectedLen]

theorem complete_request_draws (len2 : Bool) (a : DevAddr) (c : Byte) (r : Fsm) (t : Transport) {cs : List (List Byte)}
    (hn : cs.length = 4 + expectedLen len2) :
    (cs.foldl complete (accept len2 a c r, t)).2.draws = t.draws + drawsTaken len2 (cs.getD 3 []) := by
  match cs with
  | [] | [_] | [_, _] | [_, _, _] => exact absurd hn (by simp only [List.length_cons, List.length_nil]; omega)
  | x₀ :: x₁ :: x₂ :: sent :: reads =>
    have hreads : reads.length = expectedLen len2 := by
      simp only [List.length_cons] at hn
      omega
    rw [show x₀ :: x₁ :: x₂ :: sent :: reads = [x₀, x₁, x₂, sent] ++ reads from rfl, List.foldl_append,
      complete_until_read]
    exact complete_reads_draws len2 a c _ _ _ hreads

/-! ### The channel layer over the run of one request

The layer keeps its phase while commands remain, and takes the word in the step that completes the last (R197, R253). -/

/-- A busy step counts down the commands that remain by what its edge completes; the layer keeps its phase, or the
request has ended and the layer has taken its word. -/
theorem step_busy_layer {s s' : State} (hb : s.fsm.busy = true) (hr : (nextEdge s).rst = false)
    (h : step s = .next s') :
    remaining s'.fsm = remaining s.fsm - (nextEdge s).done.toList.length ∧
      ((s'.fsm.busy = true ∧ s'.caller.chan = s.caller.chan) ∨
        (s'.fsm.busy = false ∧ ∃ c, c.chan = s.caller.chan ∧ s'.caller = takeWord s'.fsm c)) := by
  obtain ⟨t, hfsm, _, _, hchan, _, ⟨hd, rfl⟩ | ⟨sent, hd, rfl⟩⟩ := step_busy hb hr h
  · exact ⟨by simp [hfsm, hd], .inl ⟨hfsm ▸ hb, hchan⟩⟩
  · have htb : t.fsm.busy = true := hfsm ▸ hb
    refine ⟨by simp [remaining_advance, hfsm, hd], ?_⟩
    cases hend : (completeCommand sent t).fsm.busy with
    | true =>
      rw [completeCommand_fsm] at hend
      exact .inl ⟨rfl, by simp [completeCommand_caller, hend, hchan]⟩
    | false =>
      rw [completeCommand_fsm] at hend
      exact .inr ⟨rfl, t.caller, hchan, by simp [completeCommand_caller, hend, htb]⟩

/-- At the end of a run over edges that complete as many commands as remain, the last edge completing one, the layer
has taken the word of the request in the phase it had before the run. -/
theorem reaches_takeWord {es rest : List Edge} {s u : State} (hin : s.inputs = es ++ rest)
    (hrst : ∀ e ∈ es, e.rst = false) (hlast : ∀ e ∈ es.getLast?, e.done.isSome = true) (hb : s.fsm.busy = true)
    (hcount : remaining s.fsm = (answers es).length) (h : Reaches es.length s u) :
    ∃ c, c.chan = s.caller.chan ∧ u.caller = takeWord u.fsm c := by
  induction es generalizing s with
  | nil => simp [(remaining_pos hb).ne', answers] at hcount
  | cons e es ih =>
    have hn : nextEdge s = e := nextEdge_cons hin
    obtain ⟨s', hstep, hrun⟩ := h
    obtain ⟨hrem, hlayer⟩ := step_busy_layer hb (hn ▸ hrst e List.mem_cons_self) hstep
    have hcount' : remaining s'.fsm = (answers es).length := by
      rw [hrem, hn, hcount, answers_cons, List.length_append, Nat.add_sub_cancel_left]
    obtain ⟨hb', hchan⟩ | ⟨hidle, htaken⟩ := hlayer
    · rw [← hchan]
      exact ih (by simp [step_inputs hstep, hin]) (fun e' he' => hrst e' (List.mem_cons_of_mem _ he'))
        (fun e' he' => hlast e' (List.mem_getLast?_cons he')) hb' hcount' hrun
    · have hnil : es = [] := by
        cases es with
        | nil => rfl
        | cons e' es' =>
          have hpos := answers_pos (fun x hx => hlast x (List.mem_getLast?_cons hx))
          rw [← hcount', remaining, (not_busy_iff _).1 hidle] at hpos
          exact absurd hpos (Nat.lt_irrefl 0)
      subst hnil
      obtain rfl : s' = u := hrun
      exact htaken

/-- The run of an accepted request in any schedule: the registers, the record, the draws, and the layer's part. -/
theorem accepted_request_runs {s : State} {len2 : Bool} {a : DevAddr} {c : Byte} {r : Fsm} {es rest : List Edge}
    (hfsm : s.fsm = accept len2 a c r) (hin : s.inputs = es ++ rest) (hes : Schedule (4 + expectedLen len2) es) :
    ∃ u, Reaches es.length s u ∧ u.inputs = rest ∧
      u.fsm = ⟨.sIdle, a, c, len2, resultWord len2 ((answers es).getD 3 []) s.transport.draws, true,
        incomplete ((answers es).getD 3 []).length (expectedLen len2)⟩ ∧
      u.transport.log = s.transport.log ++ requestCommands len2 a c ∧
      u.transport.draws = s.transport.draws + drawsTaken len2 ((answers es).getD 3 []) ∧
      ∃ c', c'.chan = s.caller.chan ∧ u.caller = takeWord u.fsm c' := by
  obtain ⟨horderly, hlen, hlast⟩ := hes
  have hlast' : ∀ e ∈ es.getLast?, e.done.isSome = true := by
    intro e he
    simpa [Option.mem_def.1 he] using hlast
  have hcount : remaining s.fsm = (answers es).length := by simp [hfsm, hlen, remaining]
  obtain ⟨u, hu, hrest, hcore⟩ := reaches_of_answers hin horderly hlast' hcount
  have htaken := reaches_takeWord hin (fun e he => (horderly e he).1) hlast' (by simp [hfsm]) hcount hu
  rw [hfsm] at hcore
  obtain ⟨hfsm', hlog⟩ := complete_request len2 a c r s.transport hlen
  have hdraws := complete_request_draws len2 a c r s.transport hlen
  exact ⟨u, hu, hrest, (congrArg Prod.fst hcore).trans hfsm', (congrArg (·.2.log) hcore).trans hlog,
    (congrArg (·.2.draws) hcore).trans hdraws, htaken⟩

/-! ### The pseudo-operations -/

theorem exec_channel (ch : Channel) (s : State) : exec ch.instr s = .next (startChannel ch s) := by
  cases ch <;> rfl

/-- The four channels in Linear11 decode the word of their one request (R192, R194 to R196). -/
theorem takeWord_linear11 {ch : Channel} (r : Fsm) {c : Caller} (hne : ch ≠ .vout) (hc : c.chan = .word ch) :
    takeWord r c = deliver11 r.rawWord r.err c := by
  cases ch with
  | vout => exact absurd rfl hne
  | vin | temp | iout | pout => simp [takeWord, hc]

/-- `VOUT` copies the word of its first request (R193). -/
theorem takeWord_vout (r : Fsm) {c : Caller} (hc : c.chan = .word .vout) :
    takeWord r c = { c with chan := .modePending r.rawWord r.err } := by
  simp [takeWord, hc]

/-- A channel begun on a free port runs its first request to its end, where the layer takes the word. -/
theorem startChannel_runs (ch : Channel) {s : State} {es rest : List Edge} (hfree : portFree s = true)
    (hin : s.inputs = es ++ rest) (hes : Schedule 6 es) :
    (startChannel ch s).fsm = accept true Config.devAddr ch.command s.fsm ∧
      ∃ u, Reaches es.length (startChannel ch s) u ∧ u.inputs = rest ∧
        u.fsm = ⟨.sIdle, Config.devAddr, ch.command, true, resultWord true ((answers es).getD 3 []) s.transport.draws,
          true, decide (((answers es).getD 3 []).length ≠ 2)⟩ ∧
        u.transport.log = requestCommands true Config.devAddr ch.command ∧
        u.transport.draws = s.transport.draws + drawsTaken true ((answers es).getD 3 []) ∧
        ∃ c, c.chan = .word ch ∧ u.caller = takeWord u.fsm c := by
  rw [startChannel_free ch hfree]
  exact ⟨rfl, accepted_request_runs rfl hin hes⟩

/-- Settles O49: a channel other than `VOUT` runs one request, whose word it decodes as Linear11. -/
theorem linearElevenChannelsComplete : Obligations.LinearElevenChannelsComplete := by
  unfold Obligations.LinearElevenChannelsComplete
  rintro s es rest _ hfree hin hes rfl p hp
  obtain ⟨ch, hne, rfl⟩ : ∃ ch : Channel, ch ≠ .vout ∧ p = (ch.instr, ch.command) := by
    simp only [List.mem_cons, List.not_mem_nil, or_false] at hp
    obtain rfl | rfl | rfl | rfl := hp
    · exact ⟨.vin, by decide, rfl⟩
    · exact ⟨.temp, by decide, rfl⟩
    · exact ⟨.iout, by decide, rfl⟩
    · exact ⟨.pout, by decide, rfl⟩
  obtain ⟨hstart, u, hu, hrest, hfsm, hlog, _, c, hchan, hcaller⟩ := startChannel_runs ch hfree hin hes
  rw [takeWord_linear11 _ hne hchan, hfsm] at hcaller
  exact ⟨_, u, exec_channel ch s, hstart, hu, by simp [hcaller], by simp [hcaller], by rw [hfsm], by rw [hfsm],
    hlog, hrest⟩

/-- The exponent is read off the one byte of the mode word (R84). -/
theorem modeRawExp_append (m : Byte) : modeRawExp (0#8 ++ m) = m.extractLsb' 0 5 := by
  rw [← rawFirst_eq_append]
  exact BitVec.extractLsb'_setWidth_of_le (by decide)

/-- Settles O50: the value request runs and its word is copied; the edge `gap` accepts the mode request; that runs,
and the layer decodes as Linear16. -/
theorem outputVoltageCompletes : Obligations.OutputVoltageCompletes := by
  unfold Obligations.OutputVoltageCompletes
  rintro s es₁ gap es₂ rest _ _ hfree hin hes₁ hes₂ hrst hdec rfl rfl w m hw hm
  obtain ⟨hstart, v, hv, hvin, hvfsm, hvlog, hvdraws, c₁, hc₁, hvcaller⟩ :=
    startChannel_runs .vout hfree (rest := gap :: es₂ ++ rest) (by simp [hin]) hes₁
  rw [takeWord_vout _ hc₁, hvfsm, ← hw] at hvcaller
  have hpending : v.caller.chan = .modePending w (decide (((answers es₁).getD 3 []).length ≠ 2)) := by rw [hvcaller]
  have hidle : v.fsm.state = .sIdle := by rw [hvfsm]
  have hgap : nextEdge v = gap := nextEdge_cons hvin
  obtain ⟨x, hx⟩ :=
    step_answers (hgap ▸ hrst) (interleaved_idle ((not_busy_iff _).2 hidle)) (hgap ▸ hdec)
  obtain ⟨hxfsm, hxchan, _⟩ := step_modePending hidle hpending (hgap ▸ hrst) hx
  obtain ⟨hxlog, hxdraws⟩ := step_modePending_transport hidle hpending (hgap ▸ hrst) hx
  obtain ⟨u, hu, hrest, hufsm, hulog, _, c₂, hc₂, hucaller⟩ :=
    accepted_request_runs (rest := rest) hxfsm (by simp [step_inputs hx, hvin]) hes₂
  have hword : resultWord false ((answers es₂).getD 3 []) x.transport.draws = 0#8 ++ m := by
    rw [hxdraws, hvdraws, hm]
    rfl
  rw [hword] at hufsm
  rw [takeWord_mode (hc₂.trans hxchan), hufsm, modeRawExp_append] at hucaller
  have hreach : Reaches (es₁.length + (es₂.length + 1)) (startChannel .vout s) u :=
    reaches_trans hv ((reaches_succ hx).2 hu)
  exact ⟨_, u, exec_channel .vout s, hstart, hreach, by rw [hucaller]; rfl, by rw [hucaller], by rw [hufsm],
    by rw [hufsm], by rw [hulog, hxlog, hvlog]; rfl, hrest⟩

end Sys2Proof.Machine

namespace Sys2Proof.Machine

/-! ### A transport that completes nothing (R221) -/

theorem nextEdge_done_none {s : State} (h : ∀ e ∈ s.inputs, e.done = none) : (nextEdge s).done = none := by
  cases hin : s.inputs with
  | nil => rw [nextEdge_nil hin]; rfl
  | cons e es =>
    rw [nextEdge_cons hin]
    exact h e (by simp [hin])

/-- Over listed edges that complete nothing, and over the silence after them, a busy FSM steps and keeps every register. -/
theorem reaches_without_completion {s : State} (hb : s.fsm.busy = true) (ho : Orderly s)
    (hn : ∀ e ∈ s.inputs, e.done = none) (k : Nat) : ∃ t, Reaches k s t ∧ t.fsm = s.fsm := by
  induction k generalizing s with
  | zero => exact ⟨s, reaches_zero s, rfl⟩
  | succ k ih =>
    obtain ⟨hr, hq, hd⟩ := nextEdge_of_orderly ho
    obtain ⟨s', hstep, hin, hcore⟩ := step_orderly hb hr hq hd
    have hfsm : s'.fsm = s.fsm := by
      rw [nextEdge_done_none hn] at hcore
      exact congrArg Prod.fst hcore
    have hn' : ∀ e ∈ s'.inputs, e.done = none := fun e he => hn e (List.mem_of_mem_tail (hin ▸ he))
    obtain ⟨t, ht, hkeep⟩ := ih (hfsm ▸ hb) (orderly_reaches ho (reaches_step hstep)) hn'
    exact ⟨t, (reaches_succ hstep).2 ht, hkeep.trans hfsm⟩

/-- Settles O31: the registers stand still along the run, and in a busy state the invariant has `DONE = 0`. -/
theorem withoutCompletionTheRequestIsStuck : Obligations.WithoutCompletionTheRequestIsStuck := by
  unfold Obligations.WithoutCompletionTheRequestIsStuck
  intro s hb hinv hedges k
  have ho : Orderly s := by
    intro e he
    obtain ⟨hr, hq, hd, _⟩ := hedges e he
    exact ⟨hr, hq, hd⟩
  have hn : ∀ e ∈ s.inputs, e.done = none := by
    intro e he
    obtain ⟨_, _, _, hn⟩ := hedges e he
    exact hn
  have hdone : s.fsm.done = false := by simpa [hb] using hinv.done_idle
  obtain ⟨t, ht, hfsm⟩ := reaches_without_completion hb ho hn k
  exact ⟨t, ht, hfsm, hfsm ▸ hb, hfsm ▸ hdone⟩

end Sys2Proof.Machine

namespace Sys2Proof.Machine

/-! ### Reset against what coincides with it (R241) -/

theorem step_reset_cons {s : State} {e : Edge} {rest : List Edge} (hin : s.inputs = e :: rest) (hr : e.rst = true) :
    step s = .next (resetEdge e (driven e (setInputs rest s))) := by
  have hdrop : dropEdge s = setInputs rest s := by rw [dropEdge, hin, List.tail_cons]
  rw [step_reset (nextEdge_cons hin ▸ hr), nextEdge_cons hin, hdrop]

/-- With the channel layer idle, the caller's descriptor stands on the request port (R85, R111). -/
theorem requestPins_rq {e : Edge} {s : State} {d : Word} (hc : s.caller.chan = .idle) (hq : e.request = some (.rq d)) :
    requestPins e s = some (rqLen2 d, rqAddr d, rqCmd d) := by
  cases hl : rqLen2 d <;> simp [requestPins, hc, hq, CallerRequest.bundle, decode, hl, firstRequest]

/-- A free port accepts the descriptor presented at an edge without reset, whatever else comes there (R116). -/
theorem step_accepts_rq {s : State} {d : Word} (hp : portFree s = true) (hr : (nextEdge s).rst = false)
    (hq : (nextEdge s).request = some (.rq d)) :
    ∃ t, step s = .next t ∧ t.fsm = accept (rqLen2 d) (rqAddr d) (rqCmd d) s.fsm := by
  obtain ⟨hi, hc⟩ := (portFree_iff s).1 hp
  have hpins := requestPins_rq hc hq
  obtain ⟨t, h⟩ := step_answers hr (interleaved_idle ((not_busy_iff _).2 hi))
    (by simp [opDecodes, hq, CallerRequest.bundle, decode])
  obtain ⟨q, hsome, hfsm⟩ | ⟨hnone, _⟩ := step_idle_fsm hi hr h
  · obtain rfl := Option.some.inj (hpins.symm.trans hsome)
    exact ⟨t, h, hfsm⟩
  · simp [hpins] at hnone

/-- Settles O2: a reset edge reads neither the request nor, for the registers and the caller, the completion; it leaves
the port free, and a free port accepts. -/
theorem resetBeatsRequestAndCompletion : Obligations.ResetBeatsRequestAndCompletion := by
  unfold Obligations.ResetBeatsRequestAndCompletion
  intro s e rest hin hr
  have hstep := step_reset_cons hin hr
  refine ⟨?_, ?_, ?_⟩
  · intro q
    have hother := step_reset_cons (s := { s with inputs := { e with request := q } :: rest }) rfl hr
    exact hother.trans hstep.symm
  · intro q done
    have hother := step_reset_cons (s := { s with inputs := { e with request := q, done := done } :: rest }) rfl hr
    refine ⟨_, _, hstep, hother, ?_, ?_, ?_⟩
    · simp
    · simp [driven, drivenCaller]
    · simp
  · intro d e2 rest2 hrest hr2 hq
    generalize hu : resetEdge e (driven e (setInputs rest s)) = u at hstep
    have hfree : portFree u = true := (portFree_iff u).2 (by simp [← hu, Fsm.reset])
    have hnext : nextEdge u = e2 := nextEdge_cons (es := rest2) (by simp [← hu, hrest])
    obtain ⟨t, ht, hfsm⟩ := step_accepts_rq hfree (hnext ▸ hr2) (hnext ▸ hq)
    exact ⟨t, reaches_trans (reaches_step hstep) (reaches_step ht), by simp [hfsm], by simp [hfsm], by simp [hfsm],
      by simp [hfsm]⟩

/-! ### What a reset leaves in the transport (R31, R242, R247) -/

@[simp] theorem abandonBus_bus (e : Edge) (r : Fsm) (t : Transport) : (abandonBus e r t).bus = t.bus := by
  unfold abandonBus
  split <;> rfl

theorem abandonBus_open {e : Edge} {r : Fsm} (t : Transport) (h : leavesOpen e r = true) :
    (abandonBus e r t).ready = false := by
  simp [abandonBus, h]

theorem abandonBus_closed {e : Edge} {r : Fsm} (t : Transport) (h : leavesOpen e r = false) : abandonBus e r t = t := by
  simp [abandonBus, h]

/-- With no one else on the transport, a reset edge completes what the transport completes and may leave a transaction
open. -/
theorem resetEdge_transport {e : Edge} (s : State) (hq : e.outside = .quiet) :
    (resetEdge e s).transport = abandonBus e s.fsm (completeUnderReset e s).transport := by
  simp [resetEdge, hq, resetBlock]

/-- A command that the reset edge interrupts leaves its transaction open, the bus as it was. -/
theorem resetEdge_abandons {e : Edge} {s : State} (hq : e.outside = .quiet) (hd : e.done = none)
    (hs : s.fsm.state = .sBegin ∨ s.fsm.state = .sWrite ∨ s.fsm.state = .sEnd ∨ s.fsm.state = .sReq) :
    (resetEdge e s).transport.ready = false ∧ (resetEdge e s).transport.bus = s.transport.bus := by
  have hopen : leavesOpen e s.fsm = true := by
    obtain hs | hs | hs | hs := hs <;> simp [leavesOpen, hs, hd]
  rw [resetEdge_transport s hq, completeUnderReset_none s hd]
  exact ⟨abandonBus_open _ hopen, abandonBus_bus _ _ _⟩

/-- A `T_REQ` that completes at the reset edge releases the bus and leaves no transaction open (log entry 12). -/
theorem resetEdge_completes_req {e : Edge} {s : State} {sent : List Byte} (hq : e.outside = .quiet)
    (hd : e.done = some sent) (hs : s.fsm.state = .sReq) :
    (resetEdge e s).transport = { s.transport with rx := sent, bus := .released } := by
  have hclosed : leavesOpen e s.fsm = false := by simp [leavesOpen, hs, hd]
  rw [resetEdge_transport s hq, abandonBus_closed _ hclosed]
  simp [completeUnderReset, hd, outstanding, hs, transportEffect]

/-- Settles O3: the transport after a reset edge by whether the command is interrupted or completes; a completion in
`S_IDLE` by the step of a free port; the layer by what the reset edge does to the caller. -/
theorem resetInsideATransaction : Obligations.ResetInsideATransaction := by
  unfold Obligations.ResetInsideATransaction
  refine ⟨?_, ?_, ?_⟩
  · intro s hr hq
    constructor
    · intro hd hs
      obtain ⟨hready, hbus⟩ := resetEdge_abandons (s := driven (nextEdge s) (dropEdge s)) hq hd hs
      exact ⟨_, step_reset hr, hready, hbus, by rw [resetEdge_fsm]; rfl,
        fun hreq hinv => hbus.trans (hinv.req_held hreq)⟩
    · intro sent hd hs
      have htr := resetEdge_completes_req (s := driven (nextEdge s) (dropEdge s)) hq hd hs
      exact ⟨_, step_reset hr, by rw [htr], by rw [htr]; rfl, by rw [resetEdge_fsm]; rfl⟩
  · intro s sent ⟨hr, _⟩ hnone hi hc
    obtain ⟨t, h, hfsm⟩ := acceptedRequestLatchesItsOperands.2 s hi hc hr hnone
    refine ⟨t, h, hfsm, ?_⟩
    obtain ⟨len2, a, c, haccept, _⟩ | ⟨_, hlog, hchan, hres⟩ := step_portFree ((portFree_iff s).2 ⟨hi, hc⟩) hr h
    · have hbegin : t.fsm.state = .sBegin := by rw [haccept, accept_state]
      simp [hfsm, hi] at hbegin
    · exact ⟨hchan.trans hc.symm, hres, hlog⟩
  · intro s hr
    have hres : (resetEdge (nextEdge s) (driven (nextEdge s) (dropEdge s))).caller.result = s.caller.result := by simp
    exact ⟨_, step_reset hr, by simp, hres, fun hinv hc => hres.trans (hinv.no_result hc)⟩

/-! ### Complete reads leave no error (R255) -/

/-- A step whose `T_REQ`, if it completes one, has the expected count keeps `ERR = 0`. -/
theorem step_keeps_no_error {s t : State} (h : step s = .next t) (herr : s.fsm.err = false)
    (hcount : ∀ sent, s.fsm.state = .sReq → (nextEdge s).done = some sent → sent.length = expectedLen s.fsm.len2R) :
    t.fsm.err = false := by
  have hm := step_fsmMove h
  generalize t.fsm = r at hm ⊢
  cases hm with
  | resets => rfl
  | accepts => rfl
  | stays => exact herr
  | completes _ _ sent hd =>
    by_cases hs : s.fsm.state = .sReq
    · simp [advance_req _ _ hs, incomplete, hcount sent hs hd]
    · rw [advance_err _ _ hs, herr]

theorem completeReads_step {s t : State} (hc : CompleteReads s) (h : step s = .next t) : CompleteReads t :=
  fun k u sent hu => hc (k + 1) u sent ((reaches_succ h).2 hu)

/-- Settles O33, by induction on the number of steps: each keeps `ERR = 0` and the premise. -/
theorem completeReadsLeaveNoError : Obligations.CompleteReadsLeaveNoError := by
  unfold Obligations.CompleteReadsLeaveNoError
  intro s k t herr hc hreach
  induction k generalizing s with
  | zero => exact hreach ▸ herr
  | succ k ih =>
    obtain ⟨s', h, hk⟩ := hreach
    have herr' : s'.fsm.err = false := step_keeps_no_error h herr fun sent => hc 0 s sent (reaches_zero s)
    exact ih s' herr' (completeReads_step hc h) hk

end Sys2Proof.Machine
